-- ==== Sys2Proof/Word.lean ====
section
/-! DEFINITION. The widths of the frame engine (00_scope.md R6): bytes, Words, register values, addresses,
samples and frames, as bit vectors of the width the spec fixes. Nothing here computes; the bit-field
operations stand in Machine/Operands.lean. -/

namespace Sys2Proof

/-- One byte of the wire (R6 `BYTE_BITS = 8`). -/
abbrev Byte := BitVec 8

/-- A Word, the 24-bit unit of the protocol (R6 `WORD_BITS = 24`, R51). -/
abbrev Word := BitVec 24

/-- A register value (R6 `REG_BITS = 16`). -/
abbrev RegVal := BitVec 16

/-- A device register address (R6 `ADDR_BITS = 5`, R33). -/
abbrev Addr := BitVec 5

/-- A channel index, 0 to 3 (R34). -/
abbrev Chan := BitVec 2

/-- A log2 gain field (R6 `GAIN_FIELD_BITS = 4`). -/
abbrev Gain := BitVec 4

/-- A clock rate in hertz (R18, R19). -/
abbrev Hz := BitVec 32

/-- A sample as the host receives it: a signed 32-bit value (R83). `BitVec.toInt` is its number. -/
abbrev Sample := BitVec 32

/-- The 32-bit container of the sample decode (R64). -/
abbrev Container := BitVec 32

/-- The six Words one frame carries in one direction (R6 `FRAME_WORDS = 6`, R34). -/
abbrev Frame := Vector Word 6

/-- The opaque error value a transport chooses (R10). DESIGN CHOICE: a natural number, so that it can be
compared and written out; safe, since nothing computes with it (log 16). -/
abbrev TErr := Nat

/-- The opaque `mode` argument of `BusConfigure` (R7 `BUS_MODE`). DESIGN CHOICE: a natural number, passed on
unread (log 16). -/
abbrev BusMode := Nat

end Sys2Proof
end

