-- ==== Sys2Proof/Syntax.lean ====
section
/-! DEFINITION. The instructions: one constructor of `Instr` for each of the 20 rows of the opcode table
(30_encoding.md R55 to R63 for the nine wire Words, R69 for the eleven host operations), and the small
records the protocol speaks of (the command kinds of R20, the response tag of R94, the causes of R12). -/

namespace Sys2Proof

/-- The kind field of the correlator register (R20): which command the last completed frame carried. -/
inductive Kind where
  /-- The null command, or no completed frame yet (code 0). -/
  | none
  /-- A read-register command (code 1). -/
  | rreg
  /-- A write-register command (code 2). -/
  | wreg
  /-- A Command Word that is none of the three this block builds (code 3). -/
  | other
  deriving DecidableEq, Repr, Inhabited

/-- The correlator register `PEND` (R20), and what `KIND_OF` answers (R93). -/
structure Pend where
  kind : Kind
  addr : Addr
  deriving DecidableEq, Repr, Inhabited

/-- The operand `k` of `SEND_COMMAND` and `MKCMD` (R69, R91): 0 is RREG, 1 is WREG. -/
inductive CmdKind where
  | rreg
  | wreg
  deriving DecidableEq, Repr, Inhabited

/-- The correlator's record of a received Word 0 (R94). -/
structure Resp where
  kind  : Kind
  addr  : Addr
  raw   : Word
  value : RegVal
  ack   : Bool
  deriving DecidableEq, Repr, Inhabited

/-- The cause of a response record (R12, R129). The code 3 is never produced and has no constructor. -/
inductive Cause where
  | none
  | transportFault
  | ackMismatch
  deriving DecidableEq, Repr, Inhabited

/-- The rounding of the container decode on a container whose low byte is not zero (R7 `DECODE_ROUNDING`). -/
inductive Rounding where
  | trunc
  | floor
  deriving DecidableEq, Repr, Inhabited

/-- The instructions, one constructor per row of the opcode table, in the table's order.
The first nine are the Words of the wire, the other eleven the host operations. -/
inductive Instr where
  /-- `NULL`, the null command and null filler (R56). -/
  | null
  /-- `RREG a`, the read-register Command Word (R57). -/
  | rreg (addr : Addr)
  /-- `WREG a`, the write-register Command Word (R58). -/
  | wreg (addr : Addr)
  /-- `WDATA`, the write payload Word, Word 1 of a `WREG` frame (R59). -/
  | wdata (value : RegVal)
  /-- `WACK a`, the write acknowledgement, a received Word 0 (R61). -/
  | wack (addr : Addr)
  /-- `RDATA`, the register-read response, a received Word 0 (R62). -/
  | rdata (value : RegVal) (ignored : Byte)
  /-- `STATUS`, a received Word 0 that answers a null or unknown command (R63). -/
  | status (raw : Word)
  /-- `CHDATA`, a received channel Word, Words 1 to 4 (R63). -/
  | chdata (sample : Word)
  /-- `CRC`, the received Word 5 (R63). -/
  | crc (raw : Word)
  /-- `XCHG_FRAME cmd` (R100); the operand's default is the null command. -/
  | xchgFrame (cmd : Word := 0)
  /-- `SEND_COMMAND k, a [, v]` (R96); `value` is used when `k` is WREG. -/
  | sendCommand (k : CmdKind) (addr : Addr) (value : RegVal)
  /-- `FETCH_RESPONSE` (R97). -/
  | fetchResponse
  /-- `READ_CHANNELS idx` (R87): any finite sequence of channel indices, repeats allowed. -/
  | readChannels (idx : List Chan)
  /-- `READ_CHANNEL_SINGLE c` (R88). -/
  | readChannelSingle (c : Chan)
  /-- `READ_REG a` (R98). -/
  | readReg (addr : Addr)
  /-- `WRITE_REG a, v` (R99). -/
  | writeReg (addr : Addr) (value : RegVal)
  /-- `SET_GAIN g0, g1, g2, g3` (R106). -/
  | setGain (g0 g1 g2 g3 : Gain)
  /-- `GLOBAL_CHOP en, log2delay` (R108); legal delays are 1 to 16. -/
  | globalChop (en : Bool) (log2delay : BitVec 5)
  /-- `SET_SCLK hz` (R109). -/
  | setSclk (hz : Hz)
  /-- `SET_CLKIN hz` (R110). -/
  | setClkin (hz : Hz)
  deriving DecidableEq, Repr

end Sys2Proof
end

