-- ==== Sys2Proof/Machine/Operands.lean ====
section
/-! DEFINITION. The operand forms and pure functions of the protocol: Words as bytes (R37, R52), the named
shift and mask constants (R67), command building and classification (R91 to R94), the sample decoders
(R83 to R85) and the two register packings (R105, R107). All are total and touch no state. -/

namespace Sys2Proof

/-! ## Words as bytes, most significant first (R37, R52) -/

/-- The byte of a Word sent `b`-th, `b` from 0 (R52): bits 23:16, then 15:8, then 7:0. -/
def wordByte (w : Word) (b : Fin 3) : Byte :=
  match b with
  | 0 => w.extractLsb' 16 8
  | 1 => w.extractLsb' 8 8
  | 2 => w.extractLsb' 0 8

/-- The Word three bytes make, the first received the most significant (R37). -/
def bytesWord (r2 r1 r0 : Byte) : Word :=
  (r2.setWidth 24 <<< 16) ||| (r1.setWidth 24 <<< 8) ||| r0.setWidth 24

/-- A Word as the three bytes of the wire (R52). -/
def wordBytes (w : Word) : List Byte := [wordByte w 0, wordByte w 1, wordByte w 2]

/-! ## Named constants (R67) -/

/-- `PREFIX_SHIFT` (R67). -/
def prefixShift : Nat := 20
/-- `ADDR_SHIFT` (R67). -/
def addrShift : Nat := 15
/-- `ADDR_MASK`, the five bits of an address field (R67). -/
def addrMask : Word := 0x1F
/-- `VALUE_SHIFT` (R67). -/
def valueShift : Nat := 8
/-- `CMD_MASK`, the bits the null, read and write patterns fix (R67, R70). -/
def cmdMask : Word := 0xF07FFF
/-- `PREFIX_NULL` (R67). -/
def prefixNull : BitVec 4 := 0x0
/-- `PREFIX_WACK` (R67). -/
def prefixWack : BitVec 4 := 0x4
/-- `PREFIX_WREG` (R67). -/
def prefixWreg : BitVec 4 := 0x6
/-- `PREFIX_RREG` (R67). -/
def prefixRreg : BitVec 4 := 0xA
/-- `GAIN_SHIFT(i) = 4i` (R67). -/
def gainShift (i : Nat) : Nat := 4 * i
/-- `GAIN_MASK`, the four bits of a gain field (R67). -/
def gainMask : RegVal := 0xF
/-- `CHOP_DLY_SHIFT` (R67). -/
def chopDlyShift : Nat := 12
/-- `CHOP_DLY_MASK`, bits 15:12 (R67). -/
def chopDlyMask : RegVal := 0xF000
/-- `CHOP_EN_SHIFT` (R67). -/
def chopEnShift : Nat := 8
/-- `CHOP_EN_MASK`, bit 8 (R67). -/
def chopEnMask : RegVal := 0x0100
/-- `CFG_KEEP_MASK`: the bits `GLOBAL_CHOP` keeps, 11:9 and 7:0 (R67, R27). -/
def cfgKeepMask : RegVal := 0x0EFF

/-! ## Command Words (R55 to R61, R91 to R93) -/

/-- The null command and null filler `0x000000` (R56). -/
def nullWord : Word := 0x000000

/-- Format F-CMD (R55): a prefix in Word bits 23:20 and an address in bits 19:15, every other bit zero. -/
def cmdWord (p : BitVec 4) (a : Addr) : Word :=
  (p.setWidth 24 <<< prefixShift) ||| (a.setWidth 24 <<< addrShift)

/-- `MKCMD(k, a)` (R91). -/
def mkCmd (k : CmdKind) (a : Addr) : Word :=
  match k with
  | .rreg => cmdWord prefixRreg a
  | .wreg => cmdWord prefixWreg a

/-- `MKACK(a)`, the acknowledgement the block expects after `WREG a` (R92, R61). -/
def mkAck (a : Addr) : Word := cmdWord prefixWack a

/-- `ISACK(w, a)`: all 24 bits are compared (R92). -/
def isAck (w : Word) (a : Addr) : Bool := w == mkAck a

/-- The address field of a Command Word, bits 19:15 (R55). -/
def addrField (w : Word) : Addr := ((w >>> addrShift) &&& addrMask).setWidth 5

/-- Whether a Word has the form F-CMD with this prefix: the prefix in bits 23:20 and bits 14:0 zero (R70). -/
def hasPrefix (w : Word) (p : BitVec 4) : Bool := w &&& cmdMask == cmdWord p 0

/-- `KIND_OF(w)`, the class of a transmitted Word 0 (R93). -/
def kindOf (w : Word) : Pend :=
  if w = nullWord then ⟨.none, 0⟩
  else if hasPrefix w prefixRreg then ⟨.rreg, addrField w⟩
  else if hasPrefix w prefixWreg then ⟨.wreg, addrField w⟩
  else ⟨.other, 0⟩

/-- The write payload Word: the value in bits 23:8, bits 7:0 zero (R59). -/
def wdataWord (v : RegVal) : Word := v.setWidth 24 <<< valueShift

/-- The 16-bit quantity in a Word's bits 23:8 (R39, R62). -/
def valueField (w : Word) : RegVal := w.extractLsb' valueShift 16

/-- The third byte of a Word, bits 7:0 (R55 `PAD`, R62 ignored). -/
def padField (w : Word) : Byte := w.extractLsb' 0 8

/-- A Word from its value field and its third byte (R62). -/
def rdataWord (v : RegVal) (low : Byte) : Word := (v.setWidth 24 <<< valueShift) ||| low.setWidth 24

/-- `CORRELATE(p, w0)`: the received Word 0 tied to the command of the frame before (R94). -/
def correlate (p : Pend) (w0 : Word) : Resp :=
  { kind := p.kind, addr := p.addr, raw := w0, value := valueField w0, ack := isAck w0 p.addr }

/-! ## The six Words of a transmitted frame (R53) -/

/-- A frame with this Word 0 and null fillers behind it: `EXCHANGE_FRAME(cmd)` (R78). -/
def cmdFrame (cmd : Word) : Frame := #v[cmd, nullWord, nullWord, nullWord, nullWord, nullWord]

/-- The frame of `SEND_COMMAND k, a, v`: a write carries its payload in Word 1, a read a null filler (R96). -/
def sendFrame (k : CmdKind) (a : Addr) (v : RegVal) : Frame :=
  match k with
  | .rreg => cmdFrame (mkCmd .rreg a)
  | .wreg => #v[mkCmd .wreg a, wdataWord v, nullWord, nullWord, nullWord, nullWord]

/-! ## The sample decoders (R83 to R86) -/

/-- `DECODE24(w)`: the Word sign-extended to 32 bits (R83). -/
def decode24 (w : Word) : Sample := w.signExtend 32

/-- The container the block builds from a received Word, `{w, 0x00}` (R64, R84). -/
def containerOf (w : Word) : Container := w.setWidth 32 <<< 8

/-- `DECODE32(x)`: the container as a signed number divided by 256 (R84). On a container whose low byte is not
zero the rounding is the parameter `DECODE_ROUNDING`, whose default is `trunc` (R85, R7). No operation
of the block evaluates that case. -/
def decode32 (x : Container) (rounding : Rounding := .trunc) : Sample :=
  match rounding with
  | .trunc => BitVec.ofInt 32 (x.toInt.tdiv 256)
  | .floor => BitVec.ofInt 32 (x.toInt.fdiv 256)

/-- The Word index of channel `c`, `c + 1` (R34, R60). -/
def chanIndex (c : Chan) : Fin 6 := ⟨c.toNat + 1, by omega⟩

/-- The sample of channel `c` in a received frame (R87): Word `c + 1` decoded. -/
def sampleOf (rx : Frame) (c : Chan) : Sample := decode24 rx[chanIndex c]

/-! ## Register packings (R105, R107) -/

/-- Gain `i` in its field of the register value, bits `4i+3 : 4i` (R65, R67). -/
def gainField (i : Nat) (g : Gain) : RegVal := (g.setWidth 16 &&& gainMask) <<< gainShift i

/-- `PACK_GAIN(g0, g1, g2, g3)` (R105, R65). -/
def packGain (g0 g1 g2 g3 : Gain) : RegVal := gainField 3 g3 ||| gainField 2 g2 ||| gainField 1 g1 ||| gainField 0 g0

/-- The delay field of a chop setting, `d - 1` in bits 15:12 (R66, R107). -/
def chopDlyField (d : BitVec 5) : RegVal := ((d - 1).setWidth 16 <<< chopDlyShift) &&& chopDlyMask

/-- The enable field of a chop setting, bit 8 (R66, R107). -/
def chopEnField (en : Bool) : RegVal := ((BitVec.ofBool en).setWidth 16 <<< chopEnShift) &&& chopEnMask

/-- `PACK_CHOP(old, en, d)` (R107, R66): bits 15:12 and 8 replaced, the others kept. -/
def packChop (old : RegVal) (en : Bool) (d : BitVec 5) : RegVal :=
  (old &&& cfgKeepMask) ||| chopDlyField d ||| chopEnField en

end Sys2Proof
end

