-- ==== Sys2Proof/Config.lean ====
section
/-! DEFINITION. What the spec leaves to the implementation and to the environment: the open parameters of
00_scope.md R7 and the values no rule constrains (`draw`, R11). Each is an opaque constant, so no proof can
see a value of it and a claim holds whatever the value is. -/

namespace Sys2Proof

/-- What the environment answers to one call of a serial-port primitive that may fail (R10): `BusConfigure`
or `XferByte`. -/
inductive Answer where
  /-- The call completes; an `XferByte` returns the byte the far end supplies (the attached reference
  device of R124, or an unconstrained byte where none is attached). -/
  | ok
  /-- The call completes and an `XferByte` returns this byte; `BusConfigure` ignores the byte. -/
  | byte (b : Byte)
  /-- The call fails with the transport's opaque value (R10 `fault`). -/
  | fault (terr : TErr)
  /-- The call never returns (R10, R80 `stall`). -/
  | stall
  deriving DecidableEq, Repr, Inhabited

/-- `ADDR_GAIN`, the device register `SET_GAIN` writes (R7, R45, D15). -/
opaque Config.addrGain : Addr

/-- `ADDR_CFG`, the device register `GLOBAL_CHOP` reads and writes (R7, R45, D15). -/
opaque Config.addrCfg : Addr

/-- `BUS_MODE`, the `mode` argument of every `BusConfigure` (R7, D16). -/
opaque Config.busMode : BusMode

/-- `SCLK_HZ_RESET` (R7, R18, D13). -/
opaque Config.sclkHzReset : Hz

/-- `CLKIN_HZ_RESET` (R7, R19, D13). -/
opaque Config.clkinHzReset : Hz

/-- The transport's answer to its `n`-th call where the state lists no answer and no reference device is
attached: the unconstrained oracle of R113, faults and stalls among its answers (R80). -/
opaque Config.transport : Nat → Answer

/-- The byte an `XferByte` that completes returns at call `n` where nothing supplies one: `draw(u8)` of R123. -/
opaque Config.freeByte : Nat → Byte

/-- `draw(u24)` (R11): the unspecified contents of `RX` after a fault (R79) and of `rx` in a faulted record (R100). -/
opaque Config.freeWord : Nat → Word

/-- `draw(u16)`: the `value` of a faulted record (R98). -/
opaque Config.freeReg : Nat → RegVal

/-- `draw` of one sample of a faulted record (R87). -/
opaque Config.freeSample : Nat → Sample

/-- `draw` of a correlator record in a faulted response (R97, R100). -/
opaque Config.freeResp : Nat → Resp

end Sys2Proof
end

