-- ==== Sys2Proof/Machine/State.lean ====
section
/-! DEFINITION. The machine's state as plain data: the block's own elements (10_state.md R13), what the model
adds to hold a host operation, its response record and the wire trace (R10, R12, R17, R80), and the
environment that answers the serial port (R113, R124). -/

namespace Sys2Proof.Machine

/-! ## The pieces of the state -/

/-- The sequencer position `SEQ = (w, b)`: the Word being exchanged and the byte of that Word (R17). -/
structure Seq where
  w : Fin 6
  b : Fin 3
  deriving DecidableEq, Repr

/-- The bit order `BusConfigure` is given; the block has no other value to pass (R38). -/
inductive BitOrder where
  | msbFirst
  deriving DecidableEq, Repr

/-- The outcome of a `BusConfigure` (R10). -/
inductive BusOutcome where
  | ok
  | fault (terr : TErr)
  | stall
  deriving DecidableEq, Repr

/-- The outcome of an `XferByte` (R10). -/
inductive ByteOutcome where
  | byte (b : Byte)
  | fault (terr : TErr)
  | stall
  deriving DecidableEq, Repr

/-- One call of a serial-port primitive with its arguments and outcome (R10). -/
inductive Event where
  | busConfigure (hz : Hz) (order : BitOrder) (mode : BusMode) (out : BusOutcome)
  | selAssert
  | xferByte (o : Byte) (out : ByteOutcome)
  | selDeassert
  | busRelease
  deriving DecidableEq, Repr

/-- The result fields of a response record besides `cause` and `terr` (R69). -/
inductive Result where
  /-- No result field (`SEND_COMMAND`, the setters). -/
  | none
  /-- `rx[0..5]` and `resp` (`XCHG_FRAME`). -/
  | frame (rx : Frame) (resp : Resp)
  /-- `resp` (`FETCH_RESPONSE`). -/
  | resp (r : Resp)
  /-- `sample[0..n-1]` (`READ_CHANNELS`). -/
  | samples (xs : List Sample)
  /-- `sample` (`READ_CHANNEL_SINGLE`). -/
  | sample (x : Sample)
  /-- `value` (`READ_REG`). -/
  | value (v : RegVal)
  /-- `success` (`WRITE_REG`, `SET_GAIN`, `GLOBAL_CHOP`). -/
  | success (b : Bool)
  deriving DecidableEq, Repr

/-- A response record (R12): the cause, the transport's value when the cause is a transport fault, and the
operation's result fields. -/
structure Response where
  cause  : Cause
  terr   : Option TErr
  result : Result
  deriving DecidableEq, Repr

/-- What the decoder of the F-FRAME-RX table (R54, column "decoded by") makes of one received Word. -/
inductive Reading where
  /-- Word 0 through `CORRELATE` (R94). -/
  | resp (r : Resp)
  /-- A channel Word through `DECODE24` (R83). -/
  | sample (x : Sample)
  /-- The CRC Word, decoded by nothing (R63). -/
  | crc
  deriving DecidableEq, Repr

/-- The inputs of the reference device for one frame (R124): the conversions, the CRC and the status Word. -/
structure DeviceInputs where
  ch     : Vector Word 4
  crc    : Word
  status : Word
  deriving DecidableEq, Repr

/-- The reference device (R124): its register file, its latched command, the inputs of the current frame and
those of the frames after it. The last inputs stay when `later` runs out. -/
structure Device where
  reg   : Vector RegVal 32
  pend  : Pend
  now   : DeviceInputs
  later : List DeviceInputs
  deriving DecidableEq, Repr

/-- One step of a host operation (R8): one primitive of the serial port (R10) or one internal computation. -/
inductive Action where
  /-- `TX[0..5] <- tx`, the begin of a frame (R76). -/
  | load (tx : Frame)
  /-- `TX[0..5]` loaded with the write of the merged configuration value, `old` being the value just read (R108). -/
  | loadMerged (en : Bool) (d : BitVec 5)
  /-- `TX[i] <- t`, in a frame held open (log 13). -/
  | loadWord (i : Fin 6) (t : Word)
  /-- `BusConfigure` (R77). -/
  | busConfigure
  /-- `SelAssert` (R77). -/
  | selAssert
  /-- `XferByte` of byte `b` of Word `w` (R75). -/
  | xferByte (w : Fin 6) (b : Fin 3)
  /-- `RX[w] <- r`, the three bytes received (R76). -/
  | store (w : Fin 6)
  /-- The Word received as Word `w` waits to be stored (log 13). -/
  | latch (w : Fin 6)
  /-- `RX[w] <- r`, in a frame held open (log 13). -/
  | take (w : Fin 6) (r : Word)
  /-- `SelDeassert`, at the end of a whole frame (R76) or of one cut by a fault (R79). -/
  | selDeassert (whole : Bool)
  /-- `BusRelease` (R76, R79). -/
  | busRelease
  /-- `CORRELATE` and the new value of `PEND` (R95). -/
  | correlate
  /-- The operation's own end: its record is delivered (R12). -/
  | deliver
  /-- The end of an operation cut by a transport fault (R11, R79, R95). -/
  | abort (terr : TErr)
  deriving DecidableEq, Repr

/-- A host operation in progress between two of its steps (R8, R30): the operation with its operands, the steps it has
still to make, and its local values. -/
structure Running where
  /-- The operation and its operands (R30). -/
  op : Instr
  /-- The steps to come, in order. -/
  todo : List Action
  /-- The bytes received of the present Word, `r2`, `r1`, `r0` shifted in (R75). -/
  acc : Word
  /-- `resp` of the frame completed last (R95); its `value` is `old` of `GLOBAL_CHOP` (R108). -/
  resp : Resp
  deriving DecidableEq, Repr

/-- What one step of the machine is when nothing is in progress (log 2). -/
inductive Grain where
  /-- One primitive or one internal computation: the step of R8. -/
  | primitive
  /-- The whole finite sequence of these that one operation is (R8), or one Word of a frame. -/
  | operation
  deriving DecidableEq, Repr

/-- The machine's state. The first eight fields are the block's elements (R13); the next eight hold the host side
and the operation in progress; the last five are the environment and what the model records of it. -/
structure State where
  /-- `TX[0..5]`, the transmit Words (R14). -/
  tx : Frame
  /-- `RX[0..5]`, the receive Words (R15). -/
  rx : Frame
  /-- `SEQ` (R17). -/
  seq : Seq
  /-- `SCLK_HZ` (R18). -/
  sclkHz : Hz
  /-- `CLKIN_HZ` (R19). -/
  clkinHz : Hz
  /-- `PEND`, the correlator register (R20). -/
  pend : Pend
  /-- `SEL` (R22). -/
  sel : Bool
  /-- `BUS_HELD` (R23). -/
  busHeld : Bool
  /-- The position in the frame list of the running operation, 1 to 4; 0 when none runs (R17, log 17). -/
  frameNo : Nat
  /-- A received Word and its index, between its third byte and its write to `RX` (R76 `r`, log 13). -/
  inWord : Option (Fin 6 × Word)
  /-- A primitive never returned: the operation never ends (R80). -/
  stalled : Bool
  /-- The operation in progress, between two of its steps; none between operations (R8, R30). -/
  running : Option Running
  /-- Whether the next operation is run a primitive a step or as one step; the model's own (log 2). -/
  grain : Grain
  /-- The bytes of the requests the host has still to issue (R68, log 1). -/
  requests : List Byte
  /-- The record of the operation that ended last; none while one runs and before the first (R12, R25). -/
  response : Option Response
  /-- What the block's decoders make of the Word received last (R54, log 13). -/
  reading : Option Reading
  /-- The transport's answers to the calls to come, in order (R113, log 3). -/
  answers : List Answer
  /-- The reference device, where one is attached (R124, log 15). -/
  device : Option Device
  /-- The number of answered calls: the argument of the free answers and bytes (log 3). -/
  calls : Nat
  /-- The number of values drawn: the argument of the free values (R11 `draw`, log 4). -/
  draws : Nat
  /-- The wire trace, the oldest event first (R10). -/
  trace : List Event
  deriving DecidableEq, Repr

/-! ## The ways a step stops -/

/-- The faults. A response record with a cause is no fault: the block goes on after it (R138). -/
inductive Fault where
  /-- Raised by a step of a machine in which a serial-port primitive never returned: it has no next state, the
  operation never ends (R80, U14 "stuck"). Safe: the spec gives no step either. -/
  | stalled
  deriving DecidableEq, Repr

/-- The refusals: requests to which the spec gives no meaning (R12, R71, R134). All are safe: the spec says that
the model gives such a request no step. -/
inductive Refusal where
  /-- Raised by `exec` for an instruction whose meaning is not written. Safe. -/
  | notModelled (mnemonic : String)
  /-- Raised by `step` on a reserved `OPSEL` (R71). Safe. -/
  | reservedOpsel
  /-- Raised by `step` on a request that ends before its operands do (log 1). Safe. -/
  | truncatedRequest
  /-- Raised by `step` on a register address above 31 (R12, D5). Safe. -/
  | addrOutOfRange
  /-- Raised by `step` on a channel index above 3 (R12, D6). Safe. -/
  | chanOutOfRange
  /-- Raised by `step` on a gain above 15 (U10). Safe. -/
  | gainOutOfRange
  /-- Raised by `step` on a one-bit operand that is neither 0 nor 1 (log 1). Safe. -/
  | flagOutOfRange
  /-- Raised by `GLOBAL_CHOP`, and by `step` where 5 bits cannot hold the operand, on a `log2delay` outside 1
  to 16 (R12, R71, D18). Safe. -/
  | delayOutOfRange
  /-- Raised by an instruction issued while an operation is in progress: between two of its primitives, while a frame
  is open or a primitive stalled (R8, U12). Safe. -/
  | operationInProgress
  /-- Raised by a received Word where no Word has been received: outside a frame, or before the Word's third
  byte (R15, R40). Safe. -/
  | noWordReceived
  /-- Raised by a transmitted Word while the Word before it has not been written to `RX` (R76). Safe. -/
  | wordNotStored
  /-- Raised by the reset event while an operation is in progress (R147, U9). Safe. -/
  | resetDuringOperation
  deriving DecidableEq, Repr

/-! ## Reset -/

/-- The machine right after reset (R147, R148): quiescent, Idle, waiting for the first host operation. `TX` and
`RX`, which R148 leaves unspecified, are zero (DESIGN CHOICE, unsafe, log 5); the clock rates are the open
parameters; the model's own fields are empty (DESIGN CHOICE, log 6). -/
def State.reset : State where
  tx := Vector.replicate 6 0
  rx := Vector.replicate 6 0
  seq := ⟨0, 0⟩
  sclkHz := Config.sclkHzReset
  clkinHz := Config.clkinHzReset
  pend := ⟨.none, 0⟩
  sel := false
  busHeld := false
  frameNo := 0
  inWord := none
  stalled := false
  running := none
  grain := .primitive
  requests := []
  response := none
  reading := none
  answers := []
  device := none
  calls := 0
  draws := 0
  trace := []

end Sys2Proof.Machine
end

