-- ==== Sys2Proof/Machine/Device.lean ====
section
/-! DEFINITION. The reference device of 44_device_contract.md R124 and R125: the deterministic far end of the
serial port. It is environment, not part of the block; a state may or may not have one attached. -/

namespace Sys2Proof.Machine

/-- The initial state of the reference device (R124): `DEV.PEND = {NONE, 0}`, and `DEV.REG` and the inputs of the frames
as the test states. -/
def Device.initial (reg : Vector RegVal 32) (now : DeviceInputs) (later : List DeviceInputs) : Device :=
  { reg := reg, pend := ⟨.none, 0⟩, now := now, later := later }

/-- The block with the reference device at the far end, in its initial state (R124). The environment sets it up between
operations; no step does (log 15). -/
def State.attach (s : State) (reg : Vector RegVal 32) (now : DeviceInputs) (later : List DeviceInputs) : State :=
  { s with device := some (Device.initial reg now later) }

/-- `MemRead(a, 16)`: the device register `a` (R11, R124). -/
def memRead (d : Device) (a : Addr) : RegVal := d.reg[a.toNat]'(by omega)

/-- `MemWrite(a, 16, v)`: the whole register replaced (R11, R43, R124). -/
def memWrite (d : Device) (a : Addr) (v : RegVal) : Device :=
  { d with reg := d.reg.set a.toNat v (by omega) }

/-- Word 0 the device returns: its response to the command it latched in the frame before (R115, R125). -/
def deviceWord0 (d : Device) : Word :=
  match d.pend.kind with
  | .none => d.now.status
  | .rreg => wdataWord (memRead d d.pend.addr)
  | .wreg => mkAck d.pend.addr
  | .other => d.now.status

/-- The six Words the device returns in a frame (R114, R125): none depends on the Words it receives in it. -/
def deviceWords (d : Device) : Frame :=
  #v[deviceWord0 d, d.now.ch[0], d.now.ch[1], d.now.ch[2], d.now.ch[3], d.now.crc]

/-- The register write of a frame: a `WREG` command takes its value from bits 23:8 of Word 1 (R119, R125). -/
def deviceWrite (t : Frame) (d : Device) : Device :=
  if (kindOf t[0]).kind = .wreg then memWrite d (kindOf t[0]).addr (valueField t[1]) else d

/-- The inputs of the next frame (R124: supplied per frame). -/
def nextInputs (d : Device) : Device :=
  match d.later with
  | [] => d
  | x :: xs => { d with now := x, later := xs }

/-- The device after a complete, aligned frame `t` (R125 `DEVICE_FRAME`): the write, the latched command, and the
inputs of the next frame. -/
def deviceAfter (t : Frame) (d : Device) : Device :=
  nextInputs { deviceWrite t d with pend := kindOf t[0] }

/-- `DEVICE_FRAME(t)`: the Words the device returns, and the device after the frame (R125). -/
def deviceFrame (t : Frame) (d : Device) : Frame × Device := (deviceWords d, deviceAfter t d)

end Sys2Proof.Machine
end

