-- ==== Sys2Proof/Machine/Flags.lean ====
section
/-! DEFINITION. The status computations. The block has no condition codes and no sticky status (R25): what
stands in their place is the cause of a response record (R12, R129), the boolean `success` read from it,
and the two-state view `PSTATE` of the correlator register (R21). -/

namespace Sys2Proof

/-- The `cause` code of a response record (R12, R129). -/
def causeCode (c : Cause) : BitVec 2 :=
  match c with
  | .none => 0
  | .transportFault => 1
  | .ackMismatch => 2

/-- The source's boolean `success` is `cause = NONE` (R12). -/
def successOf (c : Cause) : Bool := c == .none

/-- The cause the acknowledgement comparison of a write selects (R99, R101). -/
def ackCause (ack : Bool) : Cause := if ack then .none else .ackMismatch

/-- The two-bit code of `PEND.kind` (R20). -/
def kindCode (k : Kind) : BitVec 2 :=
  match k with
  | .none => 0
  | .rreg => 1
  | .wreg => 2
  | .other => 3

/-- The source's two-state view of the correlator (R21). -/
inductive PState where
  | idle
  | commandSent
  deriving DecidableEq, Repr

/-- `PSTATE`: Idle when `PEND.kind = NONE`, CommandSent otherwise (R21). -/
def pstateOf (p : Pend) : PState := if p.kind = .none then .idle else .commandSent

end Sys2Proof
end

