-- ==== Sys2Proof/Machine/Ops.lean ====
section
/-! DEFINITION. The shared operations: the serial-port primitives (R10), the exchange of a Word and of a frame
(R75, R76), the correlator's frame step (R95), the transport fault exit (R11, R79), the delivery of a response
record (R12), the Word-by-Word view of a frame, the register transactions (R98, R99) and the reset
event (R147). -/

namespace Sys2Proof.Machine

/-! ## How an internal function ends -/

/-- How an internal function that calls the serial port ends (R10): with a value, at a primitive that failed, or at
one that never returned. The state is the one at that moment. -/
inductive Reply (α : Type) where
  | done (a : α) (s : State)
  | fault (terr : TErr) (s : State)
  | stall (s : State)

/-- Go on after a function that ended with a value; a fault or a stall ends the caller too (R101, R80). -/
def Reply.bind {α β : Type} (r : Reply α) (f : α → State → Reply β) : Reply β :=
  match r with
  | .done a s => f a s
  | .fault e s => .fault e s
  | .stall s => .stall s

/-! ## The serial port (R10) -/

/-- The environment's answer to the next call (R113): the listed one; where none is listed, the reference device
completes the call, and without a device the answer is unconstrained (log 3). -/
def nextAnswer (s : State) : Answer :=
  match s.answers with
  | a :: _ => a
  | [] => if s.device.isSome then .ok else Config.transport s.calls

/-- The byte the far end supplies at the sequencer position (R114, R35); `draw(u8)` where there is no device (R123). -/
def farByte (s : State) : Byte :=
  match s.device with
  | some d => wordByte (deviceWords d)[s.seq.w] s.seq.b
  | none => Config.freeByte s.calls

/-- The next call has been answered. -/
def State.called (s : State) : State := { s with answers := s.answers.tail, calls := s.calls + 1 }

/-- One more event on the wire trace (R10). -/
def State.event (s : State) (e : Event) : State := { s with trace := s.trace ++ [e] }

/-- The position after one successful `XferByte` (R17). After the last byte the frame ends and the position stays at
(5, 2): it never wraps (DEDUCED, log 7). -/
def Seq.next (q : Seq) : Seq :=
  match q.b with
  | 0 => ⟨q.w, 1⟩
  | 1 => ⟨q.w, 2⟩
  | 2 => if h : q.w.val < 5 then ⟨⟨q.w.val + 1, by omega⟩, 0⟩ else q

/-- `BusConfigure(SCLK_HZ, MSBFirst, BUS_MODE)` (R10, R38, R77). On success the bus is held (R23). -/
def busConfigure (s : State) : Reply Unit :=
  match nextAnswer s with
  | .fault e => .fault e (s.called.event (.busConfigure s.sclkHz .msbFirst Config.busMode (.fault e)))
  | .stall => .stall (s.called.event (.busConfigure s.sclkHz .msbFirst Config.busMode .stall))
  | .ok => .done () { s.called.event (.busConfigure s.sclkHz .msbFirst Config.busMode .ok) with busHeld := true }
  | .byte _ =>
    .done () { s.called.event (.busConfigure s.sclkHz .msbFirst Config.busMode .ok) with busHeld := true }

/-- `SelAssert()` (R10, R22): it always completes, and the sequencer starts at (0, 0) (R17). -/
def selAssert (s : State) : State := { s.event .selAssert with sel := true, seq := ⟨0, 0⟩ }

/-- A successful `XferByte(o)` that returned `b`. -/
def byteArrived (o b : Byte) (s : State) : Reply Byte :=
  .done b { s.called.event (.xferByte o (.byte b)) with seq := s.seq.next }

/-- `XferByte(o)` (R10). -/
def xferByte (o : Byte) (s : State) : Reply Byte :=
  match nextAnswer s with
  | .fault e => .fault e (s.called.event (.xferByte o (.fault e)))
  | .stall => .stall (s.called.event (.xferByte o .stall))
  | .ok => byteArrived o (farByte s) s
  | .byte b => byteArrived o b s

/-- `SelDeassert()` and `BusRelease()`, the end of the scope (R76, R79); both always complete (R10). -/
def releaseScope (s : State) : State :=
  { (s.event .selDeassert).event .busRelease with sel := false, busHeld := false }

/-! ## One Word, one frame (R75, R76) -/

/-- `XFER_WORD(t)`: three bytes out, most significant first, and the Word of the three that came in (R75, R37). -/
def xferWord (t : Word) (s : State) : Reply Word :=
  (xferByte (wordByte t 0) s).bind fun r2 s =>
    (xferByte (wordByte t 1) s).bind fun r1 s =>
      (xferByte (wordByte t 2) s).bind fun r0 s => .done (bytesWord r2 r1 r0) s

/-- What the decoder of row `i` of F-FRAME-RX makes of a Word, `p` being the command it answers (R54). -/
def readingOf (i : Fin 6) (p : Pend) (w : Word) : Reading :=
  if i = 0 then .resp (correlate p w) else if i = 5 then .crc else .sample (decode24 w)

/-- `RX[i] <- w`: a fully received Word is stored as it came (R15, R76). -/
def storeWord (i : Fin 6) (w : Word) (s : State) : State :=
  { s with rx := s.rx.set i w, reading := some (readingOf i s.pend w) }

/-- The scope of a frame opened: the bus configured, then select asserted (R77). -/
def openFrame (s : State) : Reply Unit :=
  (busConfigure { s with frameNo := s.frameNo + 1 }).bind fun _ s => .done () (selAssert s)

/-- The Words of a frame exchanged in order, each stored when it is complete (R76). -/
def xferWords : List (Fin 6) → State → Reply Unit
  | [], s => .done () s
  | i :: is, s => (xferWord s.tx[i] s).bind fun r s => xferWords is (storeWord i r s)

/-- The Word indices of a frame, in order (R34). -/
def wordIndices : List (Fin 6) := [0, 1, 2, 3, 4, 5]

/-- The scope of a complete frame released (R76). The reference device, where attached, has then seen a complete,
aligned frame (R125). -/
def closeFrame (s : State) : State :=
  { releaseScope s with device := s.device.map (deviceAfter s.tx) }

/-- `XCHG6(tx)`: one frame of six Words under one scope (R76). -/
def xchg6 (tx : Frame) (s : State) : Reply Frame :=
  (openFrame { s with tx := tx }).bind fun _ s =>
    (xferWords wordIndices s).bind fun _ s => .done s.rx (closeFrame s)

/-- `EXCHANGE_FRAME(cmd)`: the source's transport contract, null fillers behind the command (R78). -/
def exchangeFrame (s : State) (cmd : Word := nullWord) : Reply Frame := xchg6 (cmdFrame cmd) s

/-- `FRAME(tx)`: one frame with the correlator around it (R95): the received Word 0 is tied to the command of the
frame before, and `PEND` names the command just sent. -/
def frame (tx : Frame) (s : State) : Reply Resp :=
  (xchg6 tx s).bind fun rx s => .done (correlate s.pend rx[0]) { s with pend := kindOf tx[0] }

/-! ## Response records, and the one exception (R11, R12, R79) -/

/-- The operation ends and its record is delivered (R12, R165). -/
def deliver (c : Cause) (r : Result) (s : State) : State :=
  { s with response := some ⟨c, none, r⟩, frameNo := 0 }

/-- Six free Words (R11 `draw`). -/
def freeFrame (n : Nat) : Frame :=
  #v[Config.freeWord n, Config.freeWord (n + 1), Config.freeWord (n + 2), Config.freeWord (n + 3),
    Config.freeWord (n + 4), Config.freeWord (n + 5)]

/-- What a frame cut by a fault leaves (R79, R95): `RX` holds unspecified Words and `PEND` names no command. -/
def lostFrame (s : State) : State :=
  { s with rx := freeFrame s.draws, draws := s.draws + 6, pend := ⟨.none, 0⟩ }

/-- The fault exit of a frame (R79, R95). F1, when select is asserted: it is deasserted and the bus released, and what
the cut frame leaves in the reference device is not defined, so it is detached (U8, log 15). F0, when the bus was
not claimed: nothing is held. -/
def faultExit (s : State) : State :=
  lostFrame (if s.sel then { releaseScope s with device := none } else s)

/-- The operation ends with `cause = TRANSPORT_FAULT` and `terr` unchanged (R11). The result fields are drawn: `mk` makes
them from the counter and takes `n` values (R12). -/
def deliverFault (e : TErr) (mk : Nat → Result) (n : Nat) (s : State) : State :=
  { s with response := some ⟨.transportFault, some e, mk s.draws⟩, draws := s.draws + n, frameNo := 0 }

/-- `raise TRANSPORT_FAULT(terr)` (R11): the fault exit, and the whole operation ends. -/
def raiseTransportFault (e : TErr) (mk : Nat → Result) (n : Nat) (s : State) : State :=
  deliverFault e mk n (faultExit s)

/-- A primitive never returned: no further step, no record; `SEL`, `BUS_HELD` and `SEQ` keep their values (R80). -/
def hang (s : State) : State := { s with stalled := true }

/-- The end of an operation: its own end `k` after a value, the raised fault, or the stall (R165). -/
def finish {α : Type} (r : Reply α) (mk : Nat → Result) (n : Nat) (k : α → State → State) : State :=
  match r with
  | .done a s => k a s
  | .fault e s => raiseTransportFault e mk n s
  | .stall s => hang s

/-- The drawn fields of a faulted `XCHG_FRAME` (R100). -/
def drawFrame (n : Nat) : Result := .frame (freeFrame n) (Config.freeResp (n + 6))

/-! ## Host operations (R8, R68) -/

/-- Nothing can be issued now: an operation is between two of its steps, or hangs in a primitive (R8, R80). -/
def State.engaged (s : State) : Bool := s.stalled || s.running.isSome

/-- An operation is in progress: it has steps to come, a frame is open, a Word waits to be stored, or a primitive never
returned. -/
def State.busy (s : State) : Bool := s.engaged || s.sel || s.inWord.isSome

/-- An operation begins: no record yet, no frame made (R12, R17). -/
def beginOp (s : State) : State := { s with response := none, frameNo := 0 }

/-- One host operation, run to its end: the whole sequence of steps of R8 at once (Primitive.lean has them one by one).
The host may not issue it while another is in progress (R8, U12). -/
def hostOp (run : State → State) (s : State) : Host.Outcome State Fault Refusal :=
  if s.busy then .refused .operationInProgress else .next (run (beginOp s))

/-- `SEND_COMMAND` as a part of another operation: one frame, its response discarded (R96). -/
def sendCommandFrame (k : CmdKind) (a : Addr) (v : RegVal) (s : State) : Reply Unit :=
  (frame (sendFrame k a v) s).bind fun _ s => .done () s

/-- `FETCH_RESPONSE` as a part of another operation: one null frame (R97). -/
def fetchFrame (s : State) : Reply Resp := frame (cmdFrame nullWord) s

/-- The two frames of a register read, and the value in bits 23:8 of the second one's Word 0 (R98). -/
def readRegFrames (a : Addr) (s : State) : Reply RegVal :=
  (sendCommandFrame .rreg a 0 s).bind fun _ s => (fetchFrame s).bind fun r s => .done r.value s

/-- The two frames of a register write, and the acknowledgement comparison (R99). -/
def writeRegFrames (a : Addr) (v : RegVal) (s : State) : Reply Bool :=
  (sendCommandFrame .wreg a v s).bind fun _ s => (fetchFrame s).bind fun r s => .done r.ack s

/-- The record of a write: `success = (cause = NONE)` (R99, R12). -/
def deliverAck (ack : Bool) (s : State) : State :=
  deliver (ackCause ack) (.success (successOf (ackCause ack))) s

/-- `WRITE_REG` from its beginning to its record (R99); a fault reports `success = false`. -/
def writeRegOp (a : Addr) (v : RegVal) (s : State) : State :=
  finish (writeRegFrames a v s) (fun _ => .success false) 0 deliverAck

/-- The drawn samples of a faulted sampling operation (R87). -/
def drawSamples (k n : Nat) : Result := .samples ((List.range k).map fun i => Config.freeSample (n + i))

/-! ## A frame Word by Word (R53, R54, R75, R76; log 13) -/

/-- The frame a transmitted Word is sent in: the one that is open, or a new one. A new frame has all six transmit Words
loaded before its scope is opened (R14, R76): the Word as Word 0 and null fillers behind it, as in R78. -/
def wordScope (t : Word) (s : State) : Reply Unit :=
  if s.sel then .done () s else openFrame { beginOp s with tx := cmdFrame t }

/-- A transmitted Word: where no frame is open one is opened, the Word is sent unchanged as the frame's next Word
(R71, R75), and the Word that came in waits to be stored. -/
def sendWord (t : Word) (s : State) : State :=
  let r := (wordScope t s).bind fun _ s =>
    (xferWord t { s with tx := s.tx.set s.seq.w t }).bind fun r s' => .done (s.seq.w, r) s'
  finish r drawFrame 7 fun x s => { s with inWord := some x }

/-- The end of a frame made Word by Word: that of `XCHG_FRAME` (R95, R100). -/
def endWordFrame (s : State) : State :=
  deliver .none (.frame s.rx (correlate s.pend s.rx[0])) { closeFrame s with pend := kindOf s.tx[0] }

/-- A received Word stored at its index; Word 5 ends the frame (R76). -/
def receiveWord (i : Fin 6) (w : Word) (s : State) : State :=
  let t := { storeWord i w s with inWord := none }
  if i = 5 then endWordFrame t else t

/-- A wire Word of a transmitted row (R53): refused only while an operation is between two steps or hangs, or the Word
before it waits. -/
def txWord (t : Word) (s : State) : Host.Outcome State Fault Refusal :=
  if s.engaged then .refused .operationInProgress
  else if s.inWord.isSome then .refused .wordNotStored
  else .next (sendWord t s)

/-- A wire Word of a received row (R54): it is stored at the index of the Word that has just been received. -/
def rxWord (w : Word) (s : State) : Host.Outcome State Fault Refusal :=
  if s.engaged then .refused .operationInProgress
  else
    match s.inWord with
    | some (i, _) => .next (receiveWord i w s)
    | none => .refused .noWordReceived

/-! ## Reset as an event (R147) -/

/-- The reset event: every element of the block at its reset value, no wire event, the environment and the host's
requests untouched. Only between operations; during one it is outside the model (U9). No step runs it: the
platform applies it (log 19). -/
def resetBlock (s : State) : Host.Outcome State Fault Refusal :=
  if s.busy then .refused .resetDuringOperation
  else .next { s with
    tx := State.reset.tx, rx := State.reset.rx, seq := State.reset.seq, sclkHz := State.reset.sclkHz,
    clkinHz := State.reset.clkinHz, pend := State.reset.pend, sel := State.reset.sel,
    busHeld := State.reset.busHeld, frameNo := 0, response := none, reading := none }

end Sys2Proof.Machine
end

