-- ==== Sys2Proof/Machine/Correlator.lean ====
section
/-! DEFINITION. The host operations on frames and commands: `XCHG_FRAME` (R100), `SEND_COMMAND` (R96) and
`FETCH_RESPONSE` (R97). -/

namespace Sys2Proof.Machine

/-- `XCHG_FRAME cmd` (R100): the frame sent as it stands, the six received Words and the correlator's record. -/
def execXchgFrame (cmd : Word) (s : State) : Host.Outcome State Fault Refusal :=
  hostOp (fun s => finish (frame (cmdFrame cmd) s) drawFrame 7
    fun r s => deliver .none (.frame s.rx r) s) s

/-- `SEND_COMMAND k, a [, v]` (R96): one frame, its response discarded. -/
def execSendCommand (k : CmdKind) (a : Addr) (v : RegVal) (s : State) : Host.Outcome State Fault Refusal :=
  hostOp (fun s => finish (sendCommandFrame k a v s) (fun _ => .none) 0
    fun _ s => deliver .none .none s) s

/-- `FETCH_RESPONSE` (R97): one null frame, the correlator's record. Never `ACK_MISMATCH`. -/
def execFetchResponse (s : State) : Host.Outcome State Fault Refusal :=
  hostOp (fun s => finish (fetchFrame s) (fun n => .resp (Config.freeResp n)) 1
    fun r s => deliver .none (.resp r) s) s

end Sys2Proof.Machine
end

