-- ==== Sys2Proof/WellFormed.lean ====
section
/-! DEFINITION. Which instructions the spec calls legal. Every operand range but one is carried by the
operand's width (an address has 5 bits, a channel index 2, a gain 4: R12, R69), so the one check left is
the delay exponent of `GLOBAL_CHOP`. -/

namespace Sys2Proof

/-- A legal delay exponent of `GLOBAL_CHOP`: 1 to 16 (R69, R107). -/
def legalDelay (d : BitVec 5) : Bool := decide (1 ≤ d.toNat) && decide (d.toNat ≤ 16)

/-- `wellFormed i`: every operand of `i` lies in the range its rule states (R12, R71). -/
def wellFormed : Instr → Bool
  | .null => true
  | .rreg _ => true
  | .wreg _ => true
  | .wdata _ => true
  | .wack _ => true
  | .rdata _ _ => true
  | .status _ => true
  | .chdata _ => true
  | .crc _ => true
  | .xchgFrame _ => true
  | .sendCommand _ _ _ => true
  | .fetchResponse => true
  | .readChannels _ => true
  | .readChannelSingle _ => true
  | .readReg _ => true
  | .writeReg _ _ => true
  | .setGain _ _ _ _ => true
  | .globalChop _ d => legalDelay d
  | .setSclk _ => true
  | .setClkin _ => true

end Sys2Proof
end

