-- ==== Sys2Proof/Machine/Derived.lean ====
section
/-! DEFINITION. The derived configuration operations `SET_GAIN` (R106) and `GLOBAL_CHOP` (R108), and the clock-rate
setters `SET_SCLK` (R109) and `SET_CLKIN` (R110). -/

namespace Sys2Proof.Machine

/-- `SET_GAIN g0, g1, g2, g3` (R106): the packed gains written to the gain register. -/
def execSetGain (g0 g1 g2 g3 : Gain) (s : State) : Host.Outcome State Fault Refusal :=
  hostOp (writeRegOp Config.addrGain (packGain g0 g1 g2 g3)) s

/-- The four frames of `GLOBAL_CHOP` (R108): the configuration register read, and written back with the chop fields
replaced. -/
def chopFrames (en : Bool) (d : BitVec 5) (s : State) : Reply Bool :=
  (readRegFrames Config.addrCfg s).bind fun old s => writeRegFrames Config.addrCfg (packChop old en d) s

/-- `GLOBAL_CHOP en, log2delay` (R108). A delay outside 1 to 16 is refused (R12, R71). -/
def execGlobalChop (en : Bool) (d : BitVec 5) (s : State) : Host.Outcome State Fault Refusal :=
  if legalDelay d then
    hostOp (fun s => finish (chopFrames en d s) (fun _ => .success false) 0 deliverAck) s
  else .refused .delayOutOfRange

/-- `SET_SCLK hz` (R109): no frame, no wire event. -/
def execSetSclk (hz : Hz) (s : State) : Host.Outcome State Fault Refusal :=
  hostOp (fun s => deliver .none .none { s with sclkHz := hz }) s

/-- `SET_CLKIN hz` (R110): no frame, no wire event. -/
def execSetClkin (hz : Hz) (s : State) : Host.Outcome State Fault Refusal :=
  hostOp (fun s => deliver .none .none { s with clkinHz := hz }) s

end Sys2Proof.Machine
end

