-- ==== Sys2Proof/Machine/RegisterAccess.lean ====
section
/-! DEFINITION. The register operations `READ_REG` (R98) and `WRITE_REG` (R99). -/

namespace Sys2Proof.Machine

/-- `READ_REG a` (R98): a command frame, then a null frame whose Word 0 holds the value. -/
def execReadReg (a : Addr) (s : State) : Host.Outcome State Fault Refusal :=
  hostOp (fun s => finish (readRegFrames a s) (fun n => .value (Config.freeReg n)) 1
    fun v s => deliver .none (.value v) s) s

/-- `WRITE_REG a, v` (R99): a command frame with the payload, then a null frame whose Word 0 is compared with the
acknowledgement. -/
def execWriteReg (a : Addr) (v : RegVal) (s : State) : Host.Outcome State Fault Refusal :=
  hostOp (writeRegOp a v) s

end Sys2Proof.Machine
end

