-- ==== Sys2Proof/Machine/Sampling.lean ====
section
/-! DEFINITION. The sampling operations `READ_CHANNELS` (R87) and `READ_CHANNEL_SINGLE` (R88). -/

namespace Sys2Proof.Machine

/-- `READ_CHANNELS idx` (R87): one null frame whatever is asked (R89), the samples in the order of the indices. -/
def execReadChannels (idx : List Chan) (s : State) : Host.Outcome State Fault Refusal :=
  hostOp (fun s => finish (fetchFrame s) (drawSamples idx.length) idx.length
    fun _ s => deliver .none (.samples (idx.map (sampleOf s.rx))) s) s

/-- `READ_CHANNEL_SINGLE c` (R88): `READ_CHANNELS [c]`, element 0. -/
def execReadChannelSingle (c : Chan) (s : State) : Host.Outcome State Fault Refusal :=
  hostOp (fun s => finish (fetchFrame s) (fun n => .sample (Config.freeSample n)) 1
    fun _ s => deliver .none (.sample (sampleOf s.rx c)) s) s

end Sys2Proof.Machine
end

