-- ==== Sys2Proof/Machine/Wire.lean ====
section
/-! DEFINITION. The meanings of the nine wire rows of the opcode table. A transmitted Word is one Word of a
frame sent by the block (R53, R75); a received Word is stored at its index and read by the decoder of that
index (R54, R15). Six transmitted and six received Words, in turn, make one frame. -/

namespace Sys2Proof.Machine

/-- `NULL` (R56): the null command as Word 0, the null filler as Words 1 to 5. -/
def execNull (s : State) : Host.Outcome State Fault Refusal := txWord nullWord s

/-- `RREG a` (R57). -/
def execRreg (a : Addr) (s : State) : Host.Outcome State Fault Refusal := txWord (mkCmd .rreg a) s

/-- `WREG a` (R58). -/
def execWreg (a : Addr) (s : State) : Host.Outcome State Fault Refusal := txWord (mkCmd .wreg a) s

/-- `WDATA v` (R59). -/
def execWdata (v : RegVal) (s : State) : Host.Outcome State Fault Refusal := txWord (wdataWord v) s

/-- `WACK a` (R61): as Word 0 of a frame that answers a write it is compared over 24 bits (R92, R94). -/
def execWack (a : Addr) (s : State) : Host.Outcome State Fault Refusal := rxWord (mkAck a) s

/-- `RDATA` (R62): the value in bits 23:8, the third byte ignored by the correlator. -/
def execRdata (v : RegVal) (low : Byte) (s : State) : Host.Outcome State Fault Refusal :=
  rxWord (rdataWord v low) s

/-- `STATUS` (R63): a Word 0 without format or meaning. -/
def execStatus (w : Word) (s : State) : Host.Outcome State Fault Refusal := rxWord w s

/-- `CHDATA` (R63): a channel Word, read by `DECODE24` (R83). -/
def execChdata (w : Word) (s : State) : Host.Outcome State Fault Refusal := rxWord w s

/-- `CRC` (R63): Word 5, stored and never examined (R81); the frame ends with it. -/
def execCrc (w : Word) (s : State) : Host.Outcome State Fault Refusal := rxWord w s

end Sys2Proof.Machine
end

