-- ==== Sys2Proof/Machine/Dispatch.lean ====
section
/-! DEFINITION. The dispatch: one arm for each instruction, each a call of its meaning. -/

namespace Sys2Proof.Machine

def exec (i : Instr) (s : State) : Host.Outcome State Fault Refusal :=
  match i with
  | .null => Sys2Proof.Machine.execNull s
  | .rreg a => Sys2Proof.Machine.execRreg a s
  | .wreg a => Sys2Proof.Machine.execWreg a s
  | .wdata v => Sys2Proof.Machine.execWdata v s
  | .wack a => Sys2Proof.Machine.execWack a s
  | .rdata v low => Sys2Proof.Machine.execRdata v low s
  | .status w => Sys2Proof.Machine.execStatus w s
  | .chdata w => Sys2Proof.Machine.execChdata w s
  | .crc w => Sys2Proof.Machine.execCrc w s
  | .xchgFrame cmd => Sys2Proof.Machine.execXchgFrame cmd s
  | .sendCommand k a v => Sys2Proof.Machine.execSendCommand k a v s
  | .fetchResponse => Sys2Proof.Machine.execFetchResponse s
  | .readChannels idx => Sys2Proof.Machine.execReadChannels idx s
  | .readChannelSingle c => Sys2Proof.Machine.execReadChannelSingle c s
  | .readReg a => Sys2Proof.Machine.execReadReg a s
  | .writeReg a v => Sys2Proof.Machine.execWriteReg a v s
  | .setGain g0 g1 g2 g3 => Sys2Proof.Machine.execSetGain g0 g1 g2 g3 s
  | .globalChop en d => Sys2Proof.Machine.execGlobalChop en d s
  | .setSclk hz => Sys2Proof.Machine.execSetSclk hz s
  | .setClkin hz => Sys2Proof.Machine.execSetClkin hz s

end Sys2Proof.Machine
end

