-- ==== Sys2Proof/Decode.lean ====
section
/-! DEFINITION. The decoder and the encoder. A host request is a selector byte and operand bytes (R68, R69);
a Word of the wire is three bytes, most significant first (R52), and which of the nine wire rows it is
follows from its position and from the command it answers, not from its bits (R59, R70), so the decoder
takes the place it reads at, a `Slot`. It is total and rejects by name.

The binary form of the operands of a request is the model's (DESIGN CHOICE, log 1): no source gives one
(R68). After the selector each operand stands in whole bytes, most significant byte first, and the indices
of `READ_CHANNELS` are bytes `0x80 + c`, ended by a zero byte. -/

namespace Sys2Proof

/-- Why the decoder rejects what it reads. -/
inductive DecodeError where
  /-- Nothing to read. -/
  | empty
  /-- `OPSEL` 0xB to 0xF select no operation (R71). -/
  | reservedOpsel
  /-- Fewer bytes than the operation's operands take. -/
  | truncated
  /-- An address above 31 (R12, D5). -/
  | addrOutOfRange
  /-- A channel index above 3 (R12, D6). -/
  | chanOutOfRange
  /-- A gain above 15 (U10). -/
  | gainOutOfRange
  /-- A delay exponent that 5 bits cannot hold (R12, D18). -/
  | delayOutOfRange
  /-- A one-bit operand that is neither 0 nor 1. -/
  | flagOutOfRange
  /-- A transmitted Word that is no Word of this block at its position (R70, R71). -/
  | notACommand
  deriving DecidableEq, Repr

/-- Where the decoder reads: the host port, or a Word position of a frame (R34). The opcode table's `space`. -/
inductive Slot where
  /-- A request at the host port (R68). -/
  | request
  /-- Word `i` of a transmitted frame whose Word 0 is `cmd` (R53). -/
  | tx (i : Fin 6) (cmd : Word)
  /-- Word `i` of a received frame that answers a frame whose command was of kind `k` (R54). -/
  | rx (i : Fin 6) (k : Kind)
  deriving DecidableEq, Repr

/-! ## Operand bytes -/

/-- An operand of `n` bits from one byte; a byte of `2^n` or more is rejected under the name `e` (R12). -/
def operandByte (n : Nat) (e : DecodeError) (b : Byte) : Except DecodeError (BitVec n) :=
  if b.toNat < 2 ^ n then .ok (b.setWidth n) else .error e

/-- A one-bit operand (R69 `k`, `en`). -/
def flagByte (b : Byte) : Except DecodeError Bool :=
  if b = 0 then .ok false else if b = 1 then .ok true else .error .flagOutOfRange

/-- A 16-bit operand from two bytes. -/
def bytesReg (b1 b0 : Byte) : RegVal := (b1.setWidth 16 <<< 8) ||| b0.setWidth 16

/-- A 32-bit operand from four bytes. -/
def bytesHz (b3 b2 b1 b0 : Byte) : Hz :=
  (b3.setWidth 32 <<< 24) ||| (b2.setWidth 32 <<< 16) ||| (b1.setWidth 32 <<< 8) ||| b0.setWidth 32

/-- The byte that carries a channel index of `READ_CHANNELS`: `0x80 + c`. -/
def chanByte (c : Chan) : Byte := 0x80 ||| c.setWidth 8

/-- The indices of `READ_CHANNELS` up to the zero byte that ends them, and the bytes behind it. -/
def decodeChans : List Byte → Except DecodeError (List Chan × List Byte)
  | [] => .error .truncated
  | b :: bs =>
    if b = 0 then .ok ([], bs)
    else if 0x80 ≤ b.toNat ∧ b.toNat < 0x84 then
      match decodeChans bs with
      | .ok (cs, rest) => .ok (b.setWidth 2 :: cs, rest)
      | .error e => .error e
    else .error .chanOutOfRange

/-! ## Host requests (R68, R69) -/

/-- The operation a selector names, with its operands read from the bytes behind it (R69), and the bytes
behind those. -/
def decodeOperands (opsel : Nat) (bs : List Byte) : Except DecodeError (Instr × List Byte) :=
  match opsel, bs with
  | 0, b2 :: b1 :: b0 :: rest => .ok (.xchgFrame (bytesWord b2 b1 b0), rest)
  | 1, k :: a :: v1 :: v0 :: rest => do
      let k ← flagByte k
      let a ← operandByte 5 .addrOutOfRange a
      .ok (.sendCommand (if k then .wreg else .rreg) a (bytesReg v1 v0), rest)
  | 2, rest => .ok (.fetchResponse, rest)
  | 3, bs => do
      let (cs, rest) ← decodeChans bs
      .ok (.readChannels cs, rest)
  | 4, c :: rest => do
      let c ← operandByte 2 .chanOutOfRange c
      .ok (.readChannelSingle c, rest)
  | 5, a :: rest => do
      let a ← operandByte 5 .addrOutOfRange a
      .ok (.readReg a, rest)
  | 6, a :: v1 :: v0 :: rest => do
      let a ← operandByte 5 .addrOutOfRange a
      .ok (.writeReg a (bytesReg v1 v0), rest)
  | 7, g0 :: g1 :: g2 :: g3 :: rest => do
      let g0 ← operandByte 4 .gainOutOfRange g0
      let g1 ← operandByte 4 .gainOutOfRange g1
      let g2 ← operandByte 4 .gainOutOfRange g2
      let g3 ← operandByte 4 .gainOutOfRange g3
      .ok (.setGain g0 g1 g2 g3, rest)
  | 8, en :: d :: rest => do
      let en ← flagByte en
      let d ← operandByte 5 .delayOutOfRange d
      .ok (.globalChop en d, rest)
  | 9, b3 :: b2 :: b1 :: b0 :: rest => .ok (.setSclk (bytesHz b3 b2 b1 b0), rest)
  | 10, b3 :: b2 :: b1 :: b0 :: rest => .ok (.setClkin (bytesHz b3 b2 b1 b0), rest)
  | n, _ => if n < 11 then .error .truncated else .error .reservedOpsel

/-- One host request from the bytes at the host port (R68). -/
def decodeRequest (bs : List Byte) : Except DecodeError (Instr × List Byte) :=
  match bs with
  | [] => .error .empty
  | op :: rest => decodeOperands op.toNat rest

/-! ## Words of the wire (R53, R54, R70) -/

/-- The transmitted Word `w` at index `i` of a frame whose Word 0 is `cmd` (R53, R70). Word 0 is classified by
`KIND_OF`; Word 1 of a `WREG` frame is the payload; every other Word is the null filler. -/
def decodeTx (i : Fin 6) (cmd w : Word) : Option Instr :=
  if i = 0 then
    match (kindOf w).kind with
    | .none => some .null
    | .rreg => some (.rreg (addrField w))
    | .wreg => some (.wreg (addrField w))
    | .other => none
  else if i = 1 ∧ (kindOf cmd).kind = .wreg then
    if padField w = 0 then some (.wdata (valueField w)) else none
  else if w = nullWord then some .null
  else none

/-- The received Word `w` at index `i` of a frame that answers a command of kind `k` (R54, R62, R63): Word 0 is
read by what it answers, Words 1 to 4 are channels, Word 5 is the CRC. Every value is accepted (R71).
A Word 0 that answers a `WREG` and has not the acknowledgement's form is read as an opaque
`STATUS` Word (DESIGN CHOICE, log 12): the table has no row for it. -/
def decodeRx (i : Fin 6) (k : Kind) (w : Word) : Instr :=
  if i = 0 then
    match k with
    | .rreg => .rdata (valueField w) (padField w)
    | .wreg => if hasPrefix w prefixWack then .wack (addrField w) else .status w
    | .none => .status w
    | .other => .status w
  else if i = 5 then .crc w
  else .chdata w

/-- The decoder: the instruction at a slot and the bytes behind it. -/
def decodeAt (slot : Slot) (bs : List Byte) : Except DecodeError (Instr × List Byte) :=
  match slot, bs with
  | .request, bs => decodeRequest bs
  | .tx i cmd, b2 :: b1 :: b0 :: rest =>
    match decodeTx i cmd (bytesWord b2 b1 b0) with
    | some ins => .ok (ins, rest)
    | none => .error .notACommand
  | .rx i k, b2 :: b1 :: b0 :: rest => .ok (decodeRx i k (bytesWord b2 b1 b0), rest)
  | .tx _ _, [] => .error .empty
  | .rx _ _, [] => .error .empty
  | .tx _ _, _ => .error .truncated
  | .rx _ _, _ => .error .truncated

/-! ## The encoder -/

/-- The Word a wire instruction is (R56 to R63). A host operation is no Word. -/
def wireWord : Instr → Option Word
  | .null => some nullWord
  | .rreg a => some (mkCmd .rreg a)
  | .wreg a => some (mkCmd .wreg a)
  | .wdata v => some (wdataWord v)
  | .wack a => some (mkAck a)
  | .rdata v low => some (rdataWord v low)
  | .status w => some w
  | .chdata w => some w
  | .crc w => some w
  | .xchgFrame _ => none
  | .sendCommand _ _ _ => none
  | .fetchResponse => none
  | .readChannels _ => none
  | .readChannelSingle _ => none
  | .readReg _ => none
  | .writeReg _ _ => none
  | .setGain _ _ _ _ => none
  | .globalChop _ _ => none
  | .setSclk _ => none
  | .setClkin _ => none

/-- The bytes of a 16-bit operand. -/
def regBytes (v : RegVal) : List Byte := [v.extractLsb' 8 8, v.extractLsb' 0 8]

/-- The bytes of a 32-bit operand. -/
def hzBytes (v : Hz) : List Byte :=
  [v.extractLsb' 24 8, v.extractLsb' 16 8, v.extractLsb' 8 8, v.extractLsb' 0 8]

/-- The byte of a one-bit operand. -/
def boolByte (b : Bool) : Byte := if b then 1 else 0

/-- The byte of the operand `k` (R69): 0 is RREG, 1 is WREG. -/
def cmdKindByte (k : CmdKind) : Byte :=
  match k with
  | .rreg => 0
  | .wreg => 1

/-- The bytes of an instruction: three for a Word of the wire (R52), the selector of R69 and the operands for a
host operation. -/
def encode : Instr → List Byte
  | .null => wordBytes nullWord
  | .rreg a => wordBytes (mkCmd .rreg a)
  | .wreg a => wordBytes (mkCmd .wreg a)
  | .wdata v => wordBytes (wdataWord v)
  | .wack a => wordBytes (mkAck a)
  | .rdata v low => wordBytes (rdataWord v low)
  | .status w => wordBytes w
  | .chdata w => wordBytes w
  | .crc w => wordBytes w
  | .xchgFrame cmd => 0x0 :: wordBytes cmd
  | .sendCommand k a v => 0x1 :: cmdKindByte k :: a.setWidth 8 :: regBytes v
  | .fetchResponse => [0x2]
  | .readChannels idx => 0x3 :: (idx.map chanByte ++ [0])
  | .readChannelSingle c => [0x4, c.setWidth 8]
  | .readReg a => [0x5, a.setWidth 8]
  | .writeReg a v => 0x6 :: a.setWidth 8 :: regBytes v
  | .setGain g0 g1 g2 g3 => [0x7, g0.setWidth 8, g1.setWidth 8, g2.setWidth 8, g3.setWidth 8]
  | .globalChop en d => [0x8, boolByte en, d.setWidth 8]
  | .setSclk hz => 0x9 :: hzBytes hz
  | .setClkin hz => 0xA :: hzBytes hz

/-- Whether a slot is one at which the opcode table's row of `i` is read (the row's `space` and note): the
position of the Word in its frame and the command it belongs to or answers. -/
def fits (slot : Slot) (i : Instr) : Bool :=
  match i, slot with
  | .null, .tx j cmd => j == 0 || !(j == 1 && (kindOf cmd).kind == .wreg)
  | .rreg _, .tx j _ => j == 0
  | .wreg _, .tx j _ => j == 0
  | .wdata _, .tx j cmd => j == 1 && (kindOf cmd).kind == .wreg
  | .wack _, .rx j k => j == 0 && k == .wreg
  | .rdata _ _, .rx j k => j == 0 && k == .rreg
  | .status w, .rx j k =>
    j == 0 && (k == .none || k == .other || (k == .wreg && !hasPrefix w prefixWack))
  | .chdata _, .rx j _ => j != 0 && j != 5
  | .crc _, .rx j _ => j == 5
  | i, .request => (wireWord i).isNone
  | _, _ => false

/-! ## Reading an opcode-table row -/

/-- The wire row a 24-bit pattern is by its bits alone, the most specific pattern first and the table's order
among equals: `NULL`, `RREG`, `WREG`, `WACK`, `WDATA`, then `RDATA`. DESIGN CHOICE (log 11): on the wire the
position decides (R70), which the bits do not tell, and the rows `RDATA`, `STATUS`, `CHDATA` and `CRC` all
match every Word. -/
def decodeByBits (w : Word) : Instr :=
  match (kindOf w).kind with
  | .none => .null
  | .rreg => .rreg (addrField w)
  | .wreg => .wreg (addrField w)
  | .other =>
    if hasPrefix w prefixWack then .wack (addrField w)
    else if padField w = 0 then .wdata (valueField w)
    else .rdata (valueField w) (padField w)

/-- The bytes of a number, the least significant first, `n` of them. -/
def numberBytes : Nat → Nat → List Byte
  | 0, _ => []
  | n + 1, w => BitVec.ofNat 8 w :: numberBytes n (w / 256)

/-- The bytes of a request whose first `nbits` bits are `w` and whose operand bytes behind them are zero, as
many as the longest fixed request has. -/
def tableRequest (nbits w : Nat) : List Byte :=
  numberBytes ((nbits + 7) / 8) w ++ List.replicate 8 0

/-- The instruction the decoder reads from the bits `w` of an opcode-table row: a 24-bit row is a Word of the
wire, any other row a host request whose further operand bits are zero. -/
def decodeTableWord (nbits w : Nat) : Option Instr :=
  if nbits = 24 then some (decodeByBits (BitVec.ofNat 24 w))
  else
    match decodeRequest (tableRequest nbits w) with
    | .ok (i, _) => some i
    | .error _ => none

end Sys2Proof
end

