-- ==== Sys2Proof/Machine/Fetch.lean ====
section
/-! DEFINITION. Where the next instruction comes from. The block fetches no program (R36): inside an operation
the next thing is its next step, between operations the host's next request (R8); in a frame held open Word by Word it
is the received Word that waits to be stored, or else the transmit Word at the sequencer position (R17, R76). -/

namespace Sys2Proof.Machine

/-- What the machine finds to do next. -/
inductive Fetched where
  /-- A primitive never returned: nothing ever (R80). -/
  | stuck
  /-- An operation is in progress: its next step (R8). -/
  | going
  /-- No request: the block waits (R147, R146). -/
  | idle
  /-- A transmit Word that is no row of the opcode table: it is sent unchanged (R71). -/
  | rawWord (w : Word)
  /-- An instruction, and the state with its bytes taken. -/
  | run (i : Instr) (s : State)
  /-- The bytes at the host port are no request. -/
  | bad (e : DecodeError)

/-- The host's next request (R68). -/
def fetchRequest (s : State) : Fetched :=
  match s.requests with
  | [] => .idle
  | b :: bs =>
    match decodeRequest (b :: bs) with
    | .ok (i, rest) => .run i { s with requests := rest }
    | .error e => .bad e

/-- The next transmit Word of an open frame (R53, R76). -/
def fetchTx (s : State) : Fetched :=
  match decodeTx s.seq.w s.tx[0] s.tx[s.seq.w] with
  | some i => .run i s
  | none => .rawWord s.tx[s.seq.w]

/-- The next thing the machine does. -/
def fetch (s : State) : Fetched :=
  if s.stalled then .stuck
  else if s.running.isSome then .going
  else
    match s.inWord with
    | some (i, w) => .run (decodeRx i s.pend.kind w) s
    | none => if s.sel then fetchTx s else fetchRequest s

/-- The refusal of a request the decoder rejects (R12, R71). -/
def refusalOf (e : DecodeError) : Refusal :=
  match e with
  | .empty => .truncatedRequest
  | .reservedOpsel => .reservedOpsel
  | .truncated => .truncatedRequest
  | .addrOutOfRange => .addrOutOfRange
  | .chanOutOfRange => .chanOutOfRange
  | .gainOutOfRange => .gainOutOfRange
  | .delayOutOfRange => .delayOutOfRange
  | .flagOutOfRange => .flagOutOfRange
  | .notACommand => .truncatedRequest

/-- A frame held open whose transmit Words are `tx`, all six loaded (R14); what it received before is free (R15). -/
def placeFrame (tx : Frame) (s : State) : State :=
  { s with tx := tx, rx := freeFrame s.draws, draws := s.draws + 6, sel := true, busHeld := true, inWord := none,
           frameNo := 1, response := none, stalled := false, running := none }

/-- A frame held open at Word `i` of the transmit Words `tx`, that Word the next to be sent. -/
def placeTx (i : Fin 6) (tx : Frame) (s : State) : State := { placeFrame tx s with seq := ⟨i, 0⟩ }

/-- A null frame held open, Word `i` received and waiting to be stored, in answer to a command of kind `k`. -/
def placeRx (i : Fin 6) (k : Kind) (w : Word) (s : State) : State :=
  { placeFrame (cmdFrame nullWord) s with
    pend := { s.pend with kind := k }, seq := Seq.next ⟨i, 2⟩, inWord := some (i, w) }

/-- The place at which a Word is read as the instruction `i` (log 14): its Word index, and the command its frame
carries or answers. A host operation is no Word: the state stays as it is. -/
def placeWord (i : Instr) (w : Word) (s : State) : State :=
  match i with
  | .null => placeTx 0 (cmdFrame w) s
  | .rreg _ => placeTx 0 (cmdFrame w) s
  | .wreg _ => placeTx 0 (cmdFrame w) s
  | .wdata v => placeTx 1 (sendFrame .wreg 0 v) s
  | .wack _ => placeRx 0 .wreg w s
  | .rdata _ _ => placeRx 0 .rreg w s
  | .status _ => placeRx 0 .none w s
  | .chdata _ => placeRx 1 .none w s
  | .crc _ => placeRx 5 .none w s
  | .xchgFrame _ => s
  | .sendCommand _ _ _ => s
  | .fetchResponse => s
  | .readChannels _ => s
  | .readChannelSingle _ => s
  | .readReg _ => s
  | .writeReg _ _ => s
  | .setGain _ _ _ _ => s
  | .globalChop _ _ => s
  | .setSclk _ => s
  | .setClkin _ => s

/-- A request placed as the one next request at the host port: the bytes the decoder takes, no more. -/
def placeRequest (bs : List Byte) (s : State) : State :=
  match decodeRequest bs with
  | .ok (_, rest) => { s with requests := bs.take (bs.length - rest.length) }
  | .error _ => { s with requests := bs }

end Sys2Proof.Machine
end

