-- ==== Sys2Proof/Machine/Primitive.lean ====
section
/-! DEFINITION. The steps of R8: one step of the block is one primitive of the serial port or one internal computation, and
a host operation is a finite, fixed sequence of them. `actions` gives the sequence, `issue` accepts an instruction,
and `tick` makes one step; the meanings of the instructions (`exec`) are the whole sequence at once. -/

namespace Sys2Proof.Machine

/-! ## The sequence of steps of an operation -/

/-- One Word exchanged and stored (R75, R76). -/
def wordActions (w : Fin 6) : List Action := [.xferByte w 0, .xferByte w 1, .xferByte w 2, .store w]

/-- The end of a whole frame: the scope released, the correlator's step (R76, R95). -/
def closeActions : List Action := [.selDeassert true, .busRelease, .correlate]

/-- One frame whose transmit Words `first` loads (R76, R77, R95). -/
def frameActions (first : Action) : List Action :=
  first :: .busConfigure :: .selAssert :: wordIndices.flatMap wordActions ++ closeActions

/-- The frame `FRAME(tx)` (R95). -/
def sendActions (tx : Frame) : List Action := frameActions (.load tx)

/-- The null frame that fetches a response (R97). -/
def fetchActions : List Action := sendActions (cmdFrame nullWord)

/-- The two frames of a register write, and the record (R99). -/
def writeActions (a : Addr) (v : RegVal) : List Action := sendActions (sendFrame .wreg a v) ++ (fetchActions ++ [.deliver])

/-- The fixed sequence of a host operation (R8, R69, R87 to R110). A Word of the wire is no operation: its steps depend
on the frame it stands in (`startWord`, `startTake`). -/
def actions : Instr → List Action
  | .null => []
  | .rreg _ => []
  | .wreg _ => []
  | .wdata _ => []
  | .wack _ => []
  | .rdata _ _ => []
  | .status _ => []
  | .chdata _ => []
  | .crc _ => []
  | .xchgFrame cmd => sendActions (cmdFrame cmd) ++ [.deliver]
  | .sendCommand k a v => sendActions (sendFrame k a v) ++ [.deliver]
  | .fetchResponse => fetchActions ++ [.deliver]
  | .readChannels _ => fetchActions ++ [.deliver]
  | .readChannelSingle _ => fetchActions ++ [.deliver]
  | .readReg a => sendActions (sendFrame .rreg a 0) ++ (fetchActions ++ [.deliver])
  | .writeReg a v => writeActions a v
  | .setGain g0 g1 g2 g3 => writeActions Config.addrGain (packGain g0 g1 g2 g3)
  | .globalChop en d =>
    sendActions (sendFrame .rreg Config.addrCfg 0) ++
      (fetchActions ++ (frameActions (.loadMerged en d) ++ (fetchActions ++ [.deliver])))
  | .setSclk _ => [.deliver]
  | .setClkin _ => [.deliver]

/-! ## The two ends of an operation -/

/-- An operation's own end: its register written, its record delivered (R12, R87 to R110). A frame made Word by Word
ends as `XCHG_FRAME` does (log 13), so a Word of the wire is no running operation. -/
def endOp (op : Instr) (r : Resp) (s : State) : State :=
  match op with
  | .null => deliver .none .none s
  | .rreg _ => deliver .none .none s
  | .wreg _ => deliver .none .none s
  | .wdata _ => deliver .none .none s
  | .wack _ => deliver .none .none s
  | .rdata _ _ => deliver .none .none s
  | .status _ => deliver .none .none s
  | .chdata _ => deliver .none .none s
  | .crc _ => deliver .none .none s
  | .xchgFrame _ => deliver .none (.frame s.rx r) s
  | .sendCommand _ _ _ => deliver .none .none s
  | .fetchResponse => deliver .none (.resp r) s
  | .readChannels idx => deliver .none (.samples (idx.map (sampleOf s.rx))) s
  | .readChannelSingle c => deliver .none (.sample (sampleOf s.rx c)) s
  | .readReg _ => deliver .none (.value r.value) s
  | .writeReg _ _ => deliverAck r.ack s
  | .setGain _ _ _ _ => deliverAck r.ack s
  | .globalChop _ _ => deliverAck r.ack s
  | .setSclk hz => deliver .none .none { s with sclkHz := hz }
  | .setClkin hz => deliver .none .none { s with clkinHz := hz }

/-- The result fields of the record of an operation cut by a transport fault, drawn from the counter `n` (R12), and how
many values they take. -/
def drawResult (op : Instr) (n : Nat) : Result × Nat :=
  match op with
  | .null => (.none, 0)
  | .rreg _ => (.none, 0)
  | .wreg _ => (.none, 0)
  | .wdata _ => (.none, 0)
  | .wack _ => (.none, 0)
  | .rdata _ _ => (.none, 0)
  | .status _ => (.none, 0)
  | .chdata _ => (.none, 0)
  | .crc _ => (.none, 0)
  | .xchgFrame _ => (drawFrame n, 7)
  | .sendCommand _ _ _ => (.none, 0)
  | .fetchResponse => (.resp (Config.freeResp n), 1)
  | .readChannels idx => (drawSamples idx.length n, idx.length)
  | .readChannelSingle _ => (.sample (Config.freeSample n), 1)
  | .readReg _ => (.value (Config.freeReg n), 1)
  | .writeReg _ _ => (.success false, 0)
  | .setGain _ _ _ _ => (.success false, 0)
  | .globalChop _ _ => (.success false, 0)
  | .setSclk _ => (.none, 0)
  | .setClkin _ => (.none, 0)

/-- The operation `op` ends by a transport fault, its frame's scope released before (R11, R79). -/
def abortOp (op : Instr) (e : TErr) (s : State) : State :=
  deliverFault e (fun n => (drawResult op n).1) (drawResult op 0).2 (lostFrame s)

/-! ## One step -/

/-- The operation goes on with the steps left, and is over where none is left. -/
def goOn (r : Running) (s : State) : State :=
  { s with running := if r.todo = [] then none else some r }

/-- A primitive has answered: the operation goes on by `k`, or with the fault exit `exit` (R79), or never (R80). -/
def answered {α : Type} (reply : Reply α) (r : Running) (exit : TErr → List Action) (k : α → Running) : State :=
  match reply with
  | .done a s => goOn (k a) s
  | .fault e s => goOn { r with todo := exit e } s
  | .stall s => hang { s with running := none }

/-- One step of the running operation `r`, whose steps after it are `r.todo` (R8). -/
def act (a : Action) (r : Running) (s : State) : State :=
  match a with
  | .load tx => goOn r { s with tx := tx, frameNo := s.frameNo + 1 }
  | .loadMerged en d =>
    goOn r { s with tx := sendFrame .wreg Config.addrCfg (packChop r.resp.value en d), frameNo := s.frameNo + 1 }
  | .loadWord i t => goOn r { s with tx := s.tx.set i t }
  | .busConfigure => answered (busConfigure s) r (fun e => [.abort e]) fun _ => r
  | .selAssert => goOn r (selAssert s)
  | .xferByte w b =>
    answered (xferByte (wordByte s.tx[w] b) s) r (fun e => [.selDeassert false, .busRelease, .abort e])
      fun i => { r with acc := r.acc <<< 8 ||| i.setWidth 24 }
  | .store w => goOn r (storeWord w r.acc s)
  | .latch w => goOn r { s with inWord := some (w, r.acc) }
  | .take w x => goOn r { storeWord w x s with inWord := none }
  | .selDeassert whole =>
    goOn r { s.event .selDeassert with
      sel := false, device := if whole then s.device.map (deviceAfter s.tx) else none }
  | .busRelease => goOn r { s.event .busRelease with busHeld := false }
  | .correlate => goOn { r with resp := correlate s.pend s.rx[0] } { s with pend := kindOf s.tx[0] }
  | .deliver => endOp r.op r.resp { s with running := none }
  | .abort e => abortOp r.op e { s with running := none }

/-- One step of the operation in progress (R8). -/
def tick (s : State) : State :=
  match s.running with
  | none => s
  | some r =>
    match r.todo with
    | [] => { s with running := none }
    | a :: rest => act a { r with todo := rest } s

/-! ## Accepting an instruction -/

/-- The operation `op` accepted, with the steps it has to make; no frame has completed in it yet. -/
def start (op : Instr) (todo : List Action) (s : State) : State :=
  { s with running := some ⟨op, todo, nullWord, correlate ⟨.none, 0⟩ nullWord⟩ }

/-- A host operation accepted where none is in progress (R8, U12); its first primitive is still to come. -/
def issueOp (op : Instr) (s : State) : Host.Outcome State Fault Refusal :=
  if s.busy then .refused .operationInProgress else .next (start op (actions op) (beginOp s))

/-- The three bytes of a Word and its wait to be stored (R75, log 13). -/
def latchActions (w : Fin 6) : List Action := [.xferByte w 0, .xferByte w 1, .xferByte w 2, .latch w]

/-- A transmitted Word accepted: its frame is opened first where none is open (R76, log 13). -/
def startWord (t : Word) (s : State) : State :=
  if s.sel then start (.xchgFrame t) (.loadWord s.seq.w t :: latchActions s.seq.w) s
  else start (.xchgFrame t) (.load (cmdFrame t) :: .busConfigure :: .selAssert :: latchActions 0) (beginOp s)

/-- A received Word accepted as Word `w` of its frame; Word 5 ends the frame (R76, R95). -/
def startTake (w : Fin 6) (x : Word) (s : State) : State :=
  start (.xchgFrame s.tx[0]) (.take w x :: if w = 5 then closeActions ++ [.deliver] else []) s

/-- A transmitted row accepted, on the terms of `txWord`. -/
def issueTx (t : Word) (s : State) : Host.Outcome State Fault Refusal :=
  if s.engaged then .refused .operationInProgress
  else if s.inWord.isSome then .refused .wordNotStored
  else .next (startWord t s)

/-- A received row accepted, on the terms of `rxWord`. -/
def issueRx (x : Word) (s : State) : Host.Outcome State Fault Refusal :=
  if s.engaged then .refused .operationInProgress
  else
    match s.inWord with
    | some (i, _) => .next (startTake i x s)
    | none => .refused .noWordReceived

/-- An instruction accepted, its first step still to be made (R8). -/
def issue (i : Instr) (s : State) : Host.Outcome State Fault Refusal :=
  match i with
  | .null => issueTx nullWord s
  | .rreg a => issueTx (mkCmd .rreg a) s
  | .wreg a => issueTx (mkCmd .wreg a) s
  | .wdata v => issueTx (wdataWord v) s
  | .wack a => issueRx (mkAck a) s
  | .rdata v low => issueRx (rdataWord v low) s
  | .status w => issueRx w s
  | .chdata w => issueRx w s
  | .crc w => issueRx w s
  | .xchgFrame cmd => issueOp (.xchgFrame cmd) s
  | .sendCommand k a v => issueOp (.sendCommand k a v) s
  | .fetchResponse => issueOp .fetchResponse s
  | .readChannels idx => issueOp (.readChannels idx) s
  | .readChannelSingle c => issueOp (.readChannelSingle c) s
  | .readReg a => issueOp (.readReg a) s
  | .writeReg a v => issueOp (.writeReg a v) s
  | .setGain g0 g1 g2 g3 => issueOp (.setGain g0 g1 g2 g3) s
  | .globalChop en d => if legalDelay d then issueOp (.globalChop en d) s else .refused .delayOutOfRange
  | .setSclk hz => issueOp (.setSclk hz) s
  | .setClkin hz => issueOp (.setClkin hz) s

end Sys2Proof.Machine
end

