-- ==== Sys2Proof/Machine/Step.lean ====
section
/-! DEFINITION. The step. By R8 a step is one primitive of the serial port or one internal computation: so is every step of
an operation in progress, and every step at the grain `primitive`, the one after reset. At the grain `operation` a
step that finds nothing in progress runs the whole sequence, one host operation from its request to its record or one
Word of a frame held open (log 2). -/

namespace Sys2Proof.Machine

/-- An instruction taken up: accepted, or run to its end, by the grain (R8, log 2). -/
def takeUp (i : Instr) (s : State) : Host.Outcome State Fault Refusal :=
  match s.grain with
  | .primitive => issue i s
  | .operation => exec i s

/-- A transmit Word that is no row of the table taken up; it is sent unchanged (R71). -/
def takeUpWord (w : Word) (s : State) : State :=
  match s.grain with
  | .primitive => startWord w s
  | .operation => sendWord w s

/-- One step (R8). A machine in which a primitive never returned has no next state (R80); a machine without a
request waits unchanged (R147). -/
def step (s : State) : Host.Outcome State Fault Refusal :=
  match fetch s with
  | .stuck => .fault .stalled
  | .going => .next (tick s)
  | .idle => .next s
  | .rawWord w => .next (takeUpWord w s)
  | .run i s' => takeUp i s'
  | .bad e => .refused (refusalOf e)

/-- The state in which the next step runs the opcode-table row whose bits are `w` (log 14): a Word of the wire in a
frame held open at the place the decoder reads it, a host operation as the next request, and the grain at which the
very next step runs it whole. -/
def State.withFetchWord (s : State) (nbits w : Nat) : State :=
  let t := { s with grain := .operation, running := none }
  if nbits = 24 then placeWord (decodeByBits (BitVec.ofNat 24 w)) (BitVec.ofNat 24 w) t
  else placeRequest (tableRequest nbits w) t

end Sys2Proof.Machine
end

