-- ==== Sys2Proof/Safety.lean ====
section
/-! DEFINITION. The terms in which claims about the machine are made: quiescence (R24), the answers and events of a
frame (R77), the state after a frame, the discipline of the wire trace (R40, R77, R79, R80, R82), the machine
invariant, runs of several operations, and the device contract as a premise (R113 to R119). -/

namespace Sys2Proof.Machine

/-! ## Quiescence -/

/-- No operation is in progress and no scope is held (R24). -/
abbrev Quiescent (s : State) : Prop :=
  s.sel = false ∧ s.busHeld = false ∧ s.inWord = none ∧ s.stalled = false ∧ s.running = none

/-! ## A frame as answers, events and state -/

/-- The answers of three `XferByte` calls that return a Word (R37). -/
def wordAnswers (r : Word) : List Answer :=
  [.byte (wordByte r 0), .byte (wordByte r 1), .byte (wordByte r 2)]

/-- The answers of a frame that completes and returns the Words `rx`: one to `BusConfigure`, 18 to `XferByte` (R77). -/
def frameAnswers (rx : Frame) : List Answer := .ok :: wordIndices.flatMap fun i => wordAnswers rx[i]

/-- The three events of a Word `t` sent while `r` is received (R75). -/
def wordEvents (t r : Word) : List Event :=
  [.xferByte (wordByte t 0) (.byte (wordByte r 0)), .xferByte (wordByte t 1) (.byte (wordByte r 1)),
    .xferByte (wordByte t 2) (.byte (wordByte r 2))]

/-- The events of a frame up to and including its last byte (R77). -/
def openEvents (hz : Hz) (tx rx : Frame) : List Event :=
  .busConfigure hz .msbFirst Config.busMode .ok :: .selAssert ::
    wordIndices.flatMap fun i => wordEvents tx[i] rx[i]

/-- The events of one successful frame, in order (R77). -/
def frameEvents (hz : Hz) (tx rx : Frame) : List Event := openEvents hz tx rx ++ [.selDeassert, .busRelease]

/-- The state after one successful frame that sent `tx` and received `rx` (R76, R95), `rest` being the answers left. -/
def afterFrame (tx rx : Frame) (rest : List Answer) (s : State) : State :=
  { s with
    tx := tx, rx := rx, seq := ⟨5, 2⟩, pend := kindOf tx[0], sel := false, busHeld := false,
    frameNo := s.frameNo + 1, reading := some .crc, answers := rest,
    device := s.device.map (deviceAfter tx), calls := s.calls + 19,
    trace := s.trace ++ frameEvents s.sclkHz tx rx }

/-- The byte a frame sends at wire position `k`, 0 to 17 (R35). -/
def frameByte (tx : Frame) (k : Fin 18) : Byte := wordByte tx[k.val / 3] ⟨k.val % 3, by omega⟩

/-- The sequencer position of wire byte `k` (R17, R35). -/
def seqAt (k : Fin 18) : Seq := ⟨⟨k.val / 3, by omega⟩, ⟨k.val % 3, by omega⟩⟩

/-- The answers of a frame whose call at wire position `k` is answered by `a` after `k` bytes of `rx`. -/
def cutAnswers (rx : Frame) (k : Fin 18) (a : Answer) : List Answer := (frameAnswers rx).take (k.val + 1) ++ [a]

/-- The events of a frame up to the call at wire position `k`, whose outcome is `out`. -/
def cutEvents (hz : Hz) (tx rx : Frame) (k : Fin 18) (out : ByteOutcome) : List Event :=
  (openEvents hz tx rx).take (k.val + 2) ++ [.xferByte (frameByte tx k) out]

/-! ## The operations -/

/-- The number of frames of a host operation (R69 column "frames"); 0 for a Word of the wire, which is part of one. -/
def framesOf : Instr → Nat
  | .null => 0
  | .rreg _ => 0
  | .wreg _ => 0
  | .wdata _ => 0
  | .wack _ => 0
  | .rdata _ _ => 0
  | .status _ => 0
  | .chdata _ => 0
  | .crc _ => 0
  | .xchgFrame _ => 1
  | .sendCommand _ _ _ => 1
  | .fetchResponse => 1
  | .readChannels _ => 1
  | .readChannelSingle _ => 1
  | .readReg _ => 2
  | .writeReg _ _ => 2
  | .setGain _ _ _ _ => 2
  | .globalChop _ _ => 4
  | .setSclk _ => 0
  | .setClkin _ => 0

/-- Whether an instruction is a host operation (R69) and not a Word of the wire. -/
def isHostOp (i : Instr) : Bool := (wireWord i).isNone

/-- The six Words a host operation sends in its first frame (R53, R96 to R108). -/
def firstFrame : Instr → Frame
  | .xchgFrame cmd => cmdFrame cmd
  | .sendCommand k a v => sendFrame k a v
  | .readReg a => sendFrame .rreg a 0
  | .writeReg a v => sendFrame .wreg a v
  | .setGain g0 g1 g2 g3 => sendFrame .wreg Config.addrGain (packGain g0 g1 g2 g3)
  | .globalChop _ _ => sendFrame .rreg Config.addrCfg 0
  | _ => cmdFrame nullWord

/-- Several operations issued one after the other (R46, R165). -/
def runOps : List Instr → State → Host.Outcome State Fault Refusal
  | [], s => .next s
  | i :: is, s =>
    match exec i s with
    | .next t => runOps is t
    | .fault r => .fault r
    | .refused r => .refused r

/-- `n` steps, one after the other, stopping at the first fault or refusal. -/
def stepN : Nat → State → Host.Outcome State Fault Refusal
  | 0, s => .next s
  | n + 1, s =>
    match step s with
    | .next t => stepN n t
    | .fault r => .fault r
    | .refused r => .refused r

/-- An outcome with its next state changed by `f`. -/
def mapNext (f : State → State) (o : Host.Outcome State Fault Refusal) : Host.Outcome State Fault Refusal :=
  match o with
  | .next s => .next (f s)
  | .fault r => .fault r
  | .refused r => .refused r

/-- The Word the opcode table's four transmitted rows stand for (R56 to R59). -/
def txRow : Instr → Option Word
  | .null => some 0x000000
  | .rreg a => some (0xA00000 ||| (a.setWidth 24 <<< 15))
  | .wreg a => some (0x600000 ||| (a.setWidth 24 <<< 15))
  | .wdata v => some (v.setWidth 24 <<< 8)
  | _ => none

/-- The Word the opcode table's five received rows stand for (R61 to R63). -/
def rxRow : Instr → Option Word
  | .wack a => some (0x400000 ||| (a.setWidth 24 <<< 15))
  | .rdata v low => some ((v.setWidth 24 <<< 8) ||| low.setWidth 24)
  | .status w => some w
  | .chdata w => some w
  | .crc w => some w
  | _ => none

/-! ## The discipline of the wire trace -/

/-- Where a wire trace stands: no scope held, the bus held, select asserted and `n` bytes exchanged, a frame cut by a
fault, select released, or a call that never returned. -/
inductive Phase where
  | idle
  | held
  | selected (n : Nat)
  | cut
  | released
  | dead
  deriving DecidableEq, Repr

/-- The events the spec allows in each phase (R77, R79, R80): a scope is opened by a `BusConfigure` that succeeds and
then `SelAssert`; 18 bytes, or fewer and a fault; then `SelDeassert` and `BusRelease`; nothing after a stall. -/
def Phase.next : Phase → Event → Option Phase
  | .idle, .busConfigure _ _ _ .ok => some .held
  | .idle, .busConfigure _ _ _ (.fault _) => some .idle
  | .idle, .busConfigure _ _ _ .stall => some .dead
  | .held, .selAssert => some (.selected 0)
  | .selected n, .xferByte _ (.byte _) => if n < 18 then some (.selected (n + 1)) else none
  | .selected n, .xferByte _ (.fault _) => if n < 18 then some .cut else none
  | .selected n, .xferByte _ .stall => if n < 18 then some .dead else none
  | .selected n, .selDeassert => if n = 18 then some .released else none
  | .cut, .selDeassert => some .released
  | .released, .busRelease => some .idle
  | _, _ => none

/-- A trace followed event by event; none where an event is not allowed. -/
def scan : Phase → List Event → Option Phase
  | p, [] => some p
  | p, e :: es =>
    match p.next e with
    | some q => scan q es
    | none => none

/-- The phase a state's own registers say the trace is in when no operation is between two of its steps: `SEL`, `SEQ` and
the Word that waits (R17, R22). -/
def phaseOf (s : State) : Phase :=
  if s.stalled then .dead
  else if s.sel then
    match s.inWord with
    | some (i, _) => .selected (3 * i.val + 3)
    | none => .selected (3 * s.seq.w.val + s.seq.b.val)
  else .idle

/-- Whether `SEL`, `BUS_HELD` and `SEQ` stand as they do in a phase (R17, R22, R23). `BUS_HELD` is 1 and `SEL` 0 between
`BusConfigure` and `SelAssert` and between `SelDeassert` and `BusRelease`. After its last byte a frame's `SEQ` stays
at (5, 2) (log 7). -/
def Phase.agrees (p : Phase) (s : State) : Prop :=
  match p with
  | .idle => s.sel = false ∧ s.busHeld = false
  | .held => s.sel = false ∧ s.busHeld = true
  | .selected n => s.sel = true ∧ s.busHeld = true ∧ (n = 3 * s.seq.w.val + s.seq.b.val ∨ n = 18 ∧ s.seq = ⟨5, 2⟩)
  | .cut => s.sel = true ∧ s.busHeld = true
  | .released => s.sel = false ∧ s.busHeld = true
  | .dead => False

/-- Whether the steps an operation has still to make may follow in a phase: each primitive in its place and each Word
at its bytes (R40, R76), to the operation's end with no scope held, or to the Word of a frame held open. -/
def Phase.runs : Phase → List Action → Bool
  | .idle, [.deliver] => true
  | .idle, [.abort _] => true
  | .idle, .load _ :: as => Phase.idle.runs as
  | .idle, .loadMerged _ _ :: as => Phase.idle.runs as
  | .idle, .correlate :: as => Phase.idle.runs as
  | .idle, .busConfigure :: as => Phase.held.runs as
  | .held, .selAssert :: as => (Phase.selected 0).runs as
  | .selected n, .loadWord w _ :: as => n == 3 * w.val && (Phase.selected n).runs as
  | .selected n, .xferByte w b :: as => n == 3 * w.val + b.val && (Phase.selected (n + 1)).runs as
  | .selected n, .store w :: as => n == 3 * w.val + 3 && (Phase.selected n).runs as
  | .selected n, [.latch w] => n == 3 * w.val + 3
  | .selected n, .take w _ :: as => n == 3 * w.val + 3 && (if w = 5 then (Phase.selected n).runs as else as.isEmpty)
  | .selected n, .selDeassert true :: as => n == 18 && Phase.released.runs as
  | .cut, .selDeassert false :: as => Phase.released.runs as
  | .released, .busRelease :: as => Phase.idle.runs as
  | _, _ => false

/-- Whether the step to come takes the Word that waits (log 13). -/
def isTake : Action → Bool
  | .take _ _ => true
  | _ => false

/-- A `SelAssert` event. -/
def isSelAssert : Event → Bool
  | .selAssert => true
  | _ => false

/-- A `SelDeassert` event. -/
def isSelDeassert : Event → Bool
  | .selDeassert => true
  | _ => false

/-- A successful `BusConfigure` event. -/
def isClaim : Event → Bool
  | .busConfigure _ _ _ .ok => true
  | _ => false

/-- A `BusRelease` event. -/
def isRelease : Event → Bool
  | .busRelease => true
  | _ => false

/-- What the block itself does in an event: the bytes that came in are left out. -/
def eraseReceived : Event → Event
  | .xferByte o (.byte _) => .xferByte o (.byte 0)
  | e => e

/-! ## The invariant -/

/-- What holds of a response record (R12): `terr` is there exactly on a transport fault, and `success` is
`cause = NONE`. -/
def recordOk (r : Response) : Prop :=
  r.terr.isSome = (r.cause == .transportFault) ∧ ∀ b, r.result = .success b → b = successOf r.cause

/-- The machine invariant, which reset establishes and every step keeps. -/
structure BlockInv (s : State) : Prop where
  /-- When no operation is between two of its steps, the trace is disciplined and ends where `SEL`, `SEQ` and the stall
  say it does (R17, R40, R77, R82). Where a `BusConfigure` stalls, no scope is held; a stalled machine's trace is
  dead (R80). -/
  wire : s.running = none → scan .idle s.trace = some (phaseOf s)
  /-- Between two of its steps an operation does not hang; the trace is disciplined and ends in a phase with which `SEL`,
  `BUS_HELD` and `SEQ` agree and in which the steps to come may follow (R8, R76); a Word waits only for the step that
  takes it. -/
  going : ∀ r, s.running = some r → s.stalled = false ∧
    (∃ p : Phase, scan .idle s.trace = some p ∧ p.agrees s ∧ p.runs r.todo = true) ∧
    (s.inWord.isSome = true → ∃ a as, r.todo = a :: as ∧ isTake a = true)
  /-- Select is asserted only while the bus is held, and exactly then when no operation is between two of its steps (R22,
  R23, R24, R77). -/
  scope : (s.sel = true → s.busHeld = true) ∧ (s.running = none → s.busHeld = s.sel)
  /-- `PEND.addr` is 0 unless the kind is `RREG` or `WREG` (R20). -/
  pendAddr : s.pend.kind = .none ∨ s.pend.kind = .other → s.pend.addr = 0
  /-- Every record delivered is consistent (R12). -/
  record : ∀ r, s.response = some r → recordOk r
  /-- No record exists while an operation is in progress, a frame is open or the operation hangs (R12, R80, R165). -/
  noRecord : s.sel = true ∨ s.stalled = true ∨ s.running.isSome = true → s.response = none
  /-- A Word waits only in an open frame that does not hang, and the sequencer has passed it (R17, R76). -/
  waiting : ∀ i w, s.inWord = some (i, w) → s.sel = true ∧ s.stalled = false ∧ s.seq = Seq.next ⟨i, 2⟩
  /-- An open frame in which no Word waits and no operation runs stands at the first byte of a Word (R75). -/
  atWord : s.sel = true → s.stalled = false → s.running = none → s.inWord = none → s.seq.b = 0

/-! ## The device contract as a premise (R113) -/

/-- What the source states of Word 0 that answers the command `p`, `reg` being the device's registers: after `RREG a`
the value in bits 23:8 (R118), after `WREG a` the echo (R119); nothing else is stated (R117, R122). -/
def honestWord0 (reg : Vector RegVal 32) (p : Pend) (w : Word) : Prop :=
  match p.kind with
  | .rreg => valueField w = reg[p.addr.toNat]'(by omega)
  | .wreg => w = mkAck p.addr
  | .none => True
  | .other => True

/-- The primitives of a state neither fail nor stall: the premise under which every operation ends well (R80, R164).
It is met by a list of answers without fault or stall that is long enough for `n` calls. -/
def goodCalls (n : Nat) (s : State) : Prop :=
  n ≤ s.answers.length ∧ ∀ a ∈ s.answers.take n, a = .ok ∨ ∃ b, a = .byte b

end Sys2Proof.Machine
end

