-- ==== Sys2Proof/Certificates/Slice0/Obligations.lean ====
section
/-! DEFINITION. The statements for the provers. The completion statements give the whole next state through `afterFrame`
(Safety.lean), so each is also its instruction's frame. In `afterFrame`, `seq := (5, 2)` rests on log 7, and `frameNo`,
`reading`, `calls` and `answers` are the model's own fields (logs 3, 13, 17). -/

open Sys2Proof Sys2Proof.Machine

/-! ## Reset and the step -/

/-- Reset values (R148, R17 to R23, which the spec marks as its own decision D13): the sequencer at (0, 0), the clock rates
at the open parameters, `PEND` names no command, no scope is held. (`TX` and `RX` are unspecified in the spec; their
zeros are the model's, log 5, and are not claimed.) -/
def Obligations.ResetLeavesTheBlockQuiescentAndIdle : Prop :=
  State.reset.seq = ⟨0, 0⟩ ∧ State.reset.sclkHz = Config.sclkHzReset ∧ State.reset.clkinHz = Config.clkinHzReset ∧
  State.reset.pend = ⟨.none, 0⟩ ∧ State.reset.sel = false ∧ State.reset.busHeld = false ∧
  pstateOf State.reset.pend = .idle ∧ Quiescent State.reset

/-- The invariant holds after reset. -/
def Obligations.ResetMeetsTheInvariant : Prop := BlockInv State.reset

/-- Every step keeps the invariant, a step of one primitive as well as a step of one operation (R8): the wire trace stays
disciplined (R40, R77, R79, R80, R82) and agrees with `SEL`, `BUS_HELD` and `SEQ` between any two primitives, select is
asserted only while the bus is held, no scope is held between operations (R24) or between the frames of one, `PEND.addr`
is 0 unless the kind is a register command (R20), and records are consistent (R12). -/
def Obligations.EveryStepKeepsTheInvariant : Prop :=
  ∀ s t : State, BlockInv s → step s = .next t → BlockInv t

/-- A step runs the decoded instruction: a host request with its bytes taken, a transmit Word of an open frame, a received
Word that waits; a transmit Word that is no row of the table is sent unchanged (R71). At the grain `operation` it is
`exec`, the whole sequence of R8; at the grain `primitive` the instruction is accepted, and each step after that is
one step of R8. The Word view is the model's (log 13), the two grains are log 2. -/
def Obligations.StepRunsTheDecodedInstruction : Prop :=
  (∀ (s : State) (i : Instr) (rest : List Byte), s.stalled = false → s.running = none → s.inWord = none →
    s.sel = false → decodeRequest s.requests = .ok (i, rest) →
    (s.grain = .operation → step s = exec i { s with requests := rest }) ∧
    (s.grain = .primitive → step s = issue i { s with requests := rest })) ∧
  (∀ (s : State) (i : Instr), s.stalled = false → s.running = none → s.inWord = none → s.sel = true →
    decodeTx s.seq.w s.tx[0] s.tx[s.seq.w] = some i →
    (s.grain = .operation → step s = exec i s) ∧ (s.grain = .primitive → step s = issue i s)) ∧
  (∀ (s : State), s.stalled = false → s.running = none → s.inWord = none → s.sel = true →
    decodeTx s.seq.w s.tx[0] s.tx[s.seq.w] = none →
    (s.grain = .operation → step s = .next (sendWord s.tx[s.seq.w] s)) ∧
    (s.grain = .primitive → step s = .next (startWord s.tx[s.seq.w] s))) ∧
  (∀ (s : State) (j : Fin 6) (w : Word), s.stalled = false → s.running = none → s.inWord = some (j, w) →
    (s.grain = .operation → step s = exec (decodeRx j s.pend.kind w) s) ∧
    (s.grain = .primitive → step s = issue (decodeRx j s.pend.kind w) s)) ∧
  (∀ (s : State) (r : Running) (a : Action) (as : List Action), s.stalled = false → s.running = some r →
    r.todo = a :: as → step s = .next (act a { r with todo := as } s))

/-- One instruction is a finite sequence of steps (R8): where `exec` answers a next state, the instruction is accepted
without an event or a change of the wire trace, and between 1 and `30 * framesOf i + 9` steps of one primitive or one
internal computation reach exactly that state, the operation being in progress at each step before. For a host
operation that ends without a fault or a stall the number is fixed: 30 for each frame and one for the record (which
computations count as a step is the model's, log 2). What `exec` refuses is not accepted. -/
def Obligations.PrimitiveStepsMakeTheOperation : Prop :=
  ∀ (i : Instr) (s : State),
    (∀ t, exec i s = .next t → t.running = none ∧
      ∃ u n, issue i s = .next u ∧ u.trace = s.trace ∧ 0 < n ∧ n ≤ 30 * framesOf i + 9 ∧ stepN n u = .next t ∧
        (∀ m < n, ∃ v, stepN m u = .next v ∧ v.running.isSome = true) ∧
        (isHostOp i = true → t.stalled = false →
          (∀ r, t.response = some r → r.cause ≠ .transportFault) → n = 30 * framesOf i + 1)) ∧
    (∀ r, exec i s = .refused r → issue i s = .refused r)

/-- Without a request the block waits unchanged (R147); a machine in which a primitive never returned has no next
step (R80). -/
def Obligations.StepWaitsWithoutRequestAndHangsAfterStall : Prop :=
  (∀ s : State, s.stalled = false → s.running = none → s.inWord = none → s.sel = false → s.requests = [] →
    step s = .next s) ∧
  (∀ s : State, s.stalled = true → step s = .fault .stalled)

/-- A request with a reserved selector is refused (R71). -/
def Obligations.ReservedSelectorIsRefused : Prop :=
  ∀ (s : State) (b : Byte) (bs : List Byte), s.stalled = false → s.running = none → s.inWord = none →
    s.sel = false → s.requests = b :: bs → 0x0B ≤ b.toNat → step s = .refused .reservedOpsel

/-- No host operation is accepted while another is in progress (R8). -/
def Obligations.HostOperationIsRefusedWhileOneIsInProgress : Prop :=
  ∀ (i : Instr) (s : State), isHostOp i = true → wellFormed i = true → s.busy = true →
    exec i s = .refused .operationInProgress

/-- The reset event (R147): between operations it puts every element of the block at its reset value and makes no wire
event; during one it is outside the model. -/
def Obligations.ResetEventOnlyBetweenOperations : Prop :=
  (∀ s : State, s.busy = false → ∃ t, resetBlock s = .next t ∧ t.seq = ⟨0, 0⟩ ∧ t.sclkHz = Config.sclkHzReset ∧
    t.clkinHz = Config.clkinHzReset ∧ t.pend = ⟨.none, 0⟩ ∧ Quiescent t ∧ t.trace = s.trace ∧
    t.requests = s.requests ∧ t.answers = s.answers ∧ t.device = s.device) ∧
  (∀ s : State, s.busy = true → resetBlock s = .refused .resetDuringOperation)

/-! ## Encoding -/

/-- Decode and encode agree: at every slot at which an instruction's row is read, its bytes decode to it and the bytes
behind stay, for every instruction of the table and every operand. -/
def Obligations.DecodeOfEncodeIsTheInstruction : Prop :=
  ∀ (slot : Slot) (i : Instr) (rest : List Byte), fits slot i = true →
    decodeAt slot (encode i ++ rest) = .ok (i, rest)

/-- Every accepted byte string has one reading: what the decoder accepts at a slot is an instruction read there, and the
bytes taken are exactly its encoding, so no bit is dropped or ignored. -/
def Obligations.DecodedBytesAreTheEncoding : Prop :=
  ∀ (slot : Slot) (bs rest : List Byte) (i : Instr), decodeAt slot bs = .ok (i, rest) →
    fits slot i = true ∧ bs = encode i ++ rest

/-- A few Words of the wire written out from the spec's encoding (R57, R59, R61, R62; 95_test_vectors.md 2.1), and two
requests. The bytes of the two requests (the last two clauses) are the model's choice, log 1: the spec gives a
request its selector and operands (R69) and no byte form. -/
def Obligations.WrittenOutWordsDecode : Prop :=
  decodeAt (.tx 0 0xA28000) [0xA2, 0x80, 0x00] = .ok (.rreg 0x05, []) ∧
  decodeAt (.tx 1 0x628000) [0x00, 0xAA, 0x00] = .ok (.wdata 0x00AA, []) ∧
  decodeAt (.rx 0 .wreg) [0x42, 0x80, 0x00] = .ok (.wack 0x05, []) ∧
  decodeAt (.rx 0 .rreg) [0x00, 0xAA, 0xFF] = .ok (.rdata 0x00AA 0xFF, []) ∧
  decodeAt .request [0x06, 0x05, 0x00, 0xAA] = .ok (.writeReg 0x05 0x00AA, []) ∧
  decodeAt .request [0x08, 0x01, 0x04] = .ok (.globalChop true 4, [])

/-- A Word is transmitted and received as three consecutive 8-bit transfers, most significant byte first (R52), in the
decoder's byte order and at the serial port alike. -/
def Obligations.WordsTravelMostSignificantByteFirst : Prop :=
  (∀ w : Word, wordBytes w = [w.extractLsb' 16 8, w.extractLsb' 8 8, w.extractLsb' 0 8]) ∧
  (∀ r2 r1 r0 : Byte, wordBytes (bytesWord r2 r1 r0) = [r2, r1, r0]) ∧
  (∀ (t : Word) (r2 r1 r0 : Byte) (rest : List Answer) (s : State),
    s.answers = [.byte r2, .byte r1, .byte r0] ++ rest →
    ∃ s', xferWord t s = .done (bytesWord r2 r1 r0) s' ∧ s'.answers = rest ∧
      s'.trace = s.trace ++ [.xferByte (t.extractLsb' 16 8) (.byte r2), .xferByte (t.extractLsb' 8 8) (.byte r1),
        .xferByte (t.extractLsb' 0 8) (.byte r0)])

/-- `KIND_OF` classifies every 24-bit Word (R93): the null Word, the read commands, the write commands, and everything
else; and it reads back the command `MKCMD` built. -/
def Obligations.KindOfClassifiesEveryWord : Prop :=
  ∀ w : Word,
    kindOf w = (if w = 0x000000 then ⟨.none, 0⟩
      else if w &&& 0xF07FFF = 0xA00000 then ⟨.rreg, w.extractLsb' 15 5⟩
      else if w &&& 0xF07FFF = 0x600000 then ⟨.wreg, w.extractLsb' 15 5⟩
      else ⟨.other, 0⟩) ∧
    ∀ a : Addr, (kindOf w = ⟨.rreg, a⟩ ↔ w = mkCmd .rreg a) ∧ (kindOf w = ⟨.wreg, a⟩ ↔ w = mkCmd .wreg a)

/-- `MKACK` and `ISACK` (R92): the expected Word, and the comparison of all 24 bits; a Word acknowledges one address
only, and no command is its own acknowledgement. -/
def Obligations.AcknowledgementComparesAllBits : Prop :=
  ∀ (w : Word) (a : Addr), mkAck a = 0x400000 ||| (a.setWidth 24 <<< 15) ∧ (isAck w a = true ↔ w = mkAck a) ∧
    (∀ b : Addr, isAck (mkAck b) a = true ↔ b = a) ∧ ∀ k : CmdKind, isAck (mkCmd k a) a = false

/-! ## The pure functions -/

/-- `DECODE24` (R83): the two's-complement number of the 24 bits, injective, and `DECODE32` of the container `{w, 0x00}`
the block builds. -/
def Obligations.DecodeTwentyFourIsTwosComplement : Prop :=
  (∀ w : Word, (decode24 w).toInt = if w.toNat < 8388608 then (w.toNat : Int) else (w.toNat : Int) - 16777216) ∧
  (∀ v w : Word, decode24 v = decode24 w → v = w) ∧
  (∀ w : Word, decode24 w = decode32 (w.setWidth 32 <<< 8))

/-- The range and the sum law of the decoder (R86). -/
def Obligations.DecodeTwentyFourIsAdditiveInRange : Prop :=
  (∀ w : Word, -8388608 ≤ (decode24 w).toInt ∧ (decode24 w).toInt ≤ 8388607 ∧ (decode24 w).setWidth 24 = w) ∧
  (∀ a b : Word, -8388608 ≤ (decode24 a).toInt + (decode24 b).toInt →
    (decode24 a).toInt + (decode24 b).toInt ≤ 8388607 →
    (decode24 (a + b)).toInt = (decode24 a).toInt + (decode24 b).toInt)

/-- `DECODE32` on a container whose padding is zero (R84): an exact division by 256, equal to the sign extension of the
high 24 bits and to the arithmetic shift right by 8 under either rounding; on the container the block builds it is `DECODE24`. -/
def Obligations.ContainerDecodeIsExactOnZeroPadding : Prop :=
  (∀ (x : Container) (r : Rounding), x.extractLsb' 0 8 = 0 →
    (decode32 x r).toInt * 256 = x.toInt ∧ decode32 x r = (x.extractLsb' 8 24).signExtend 32 ∧
    decode32 x r = x.sshiftRight 8) ∧
  (∀ (w : Word) (r : Rounding), decode32 (containerOf w) r = decode24 w)

/-- The two roundings of `DECODE32` differ exactly on a negative container whose padding is not zero (R85). -/
def Obligations.ContainerRoundingsDifferOnNegativePadding : Prop :=
  ∀ x : Container, (decode32 x .trunc ≠ decode32 x .floor ↔ x.msb = true ∧ x.extractLsb' 0 8 ≠ 0) ∧
    decode32 x .floor = (x.extractLsb' 8 24).signExtend 32

/-- `PACK_GAIN` is a bijection that puts gain `i` in bits `4i+3 : 4i` (R105), and the source's literal. -/
def Obligations.GainPackingIsABijection : Prop :=
  (∀ g0 g1 g2 g3 : Gain, (packGain g0 g1 g2 g3).extractLsb' 0 4 = g0 ∧ (packGain g0 g1 g2 g3).extractLsb' 4 4 = g1 ∧
    (packGain g0 g1 g2 g3).extractLsb' 8 4 = g2 ∧ (packGain g0 g1 g2 g3).extractLsb' 12 4 = g3) ∧
  (∀ v : RegVal, packGain (v.extractLsb' 0 4) (v.extractLsb' 4 4) (v.extractLsb' 8 4) (v.extractLsb' 12 4) = v) ∧
  packGain 1 2 3 0 = 0x0321

/-- `PACK_CHOP` for a legal delay (R107): bits 15:12 hold `d - 1`, bit 8 holds `en`, the others are the old ones; it is
idempotent, and the old values of bits 15:12 and 8 have no influence. -/
def Obligations.ChopPackingReplacesOnlyItsFields : Prop :=
  ∀ (old : RegVal) (en : Bool) (d : BitVec 5), legalDelay d = true →
    ((packChop old en d).extractLsb' 12 4).toNat = d.toNat - 1 ∧ (packChop old en d).getLsbD 8 = en ∧
    packChop old en d &&& 0x0EFF = old &&& 0x0EFF ∧
    packChop (packChop old en d) en d = packChop old en d ∧
    ∀ old' : RegVal, old' &&& 0x0EFF = old &&& 0x0EFF → packChop old' en d = packChop old en d

/-! ## The frame and the host operations, when every primitive completes -/

/-- `XCHG_FRAME` (R100). -/
def Obligations.XchgFrameReturnsTheSixWords : Prop :=
  ∀ (cmd : Word) (rx : Frame) (rest : List Answer) (s : State), s.busy = false → s.answers = frameAnswers rx ++ rest →
    exec (.xchgFrame cmd) s =
      .next (deliver .none (.frame rx (correlate s.pend rx[0]))
        (afterFrame #v[cmd, 0, 0, 0, 0, 0] rx rest (beginOp s)))

/-- `SEND_COMMAND` in both forms (R96): a read sends null fillers, a write its payload in Word 1; the response of the
frame is discarded, and `PEND` names the command. -/
def Obligations.SendCommandSendsOneFrame : Prop :=
  ∀ (a : Addr) (v : RegVal) (rx : Frame) (rest : List Answer) (s : State), s.busy = false →
    s.answers = frameAnswers rx ++ rest →
    exec (.sendCommand .rreg a v) s =
      .next (deliver .none .none (afterFrame #v[mkCmd .rreg a, 0, 0, 0, 0, 0] rx rest (beginOp s))) ∧
    exec (.sendCommand .wreg a v) s =
      .next (deliver .none .none
        (afterFrame #v[mkCmd .wreg a, v.setWidth 24 <<< 8, 0, 0, 0, 0] rx rest (beginOp s))) ∧
    (afterFrame #v[mkCmd .rreg a, 0, 0, 0, 0, 0] rx rest (beginOp s)).pend = ⟨.rreg, a⟩ ∧
    (afterFrame #v[mkCmd .wreg a, v.setWidth 24 <<< 8, 0, 0, 0, 0] rx rest (beginOp s)).pend = ⟨.wreg, a⟩

/-- `FETCH_RESPONSE` (R97): one null frame, and its Word 0 tagged with the command of the frame before. -/
def Obligations.FetchResponseReturnsTheTaggedWord : Prop :=
  ∀ (rx : Frame) (rest : List Answer) (s : State), s.busy = false → s.answers = frameAnswers rx ++ rest →
    exec .fetchResponse s =
      .next (deliver .none
        (.resp { kind := s.pend.kind, addr := s.pend.addr, raw := rx[0], value := rx[0].extractLsb' 8 16,
                 ack := decide (rx[0] = mkAck s.pend.addr) })
        (afterFrame #v[0, 0, 0, 0, 0, 0] rx rest (beginOp s)))

/-- `READ_CHANNELS` and `READ_CHANNEL_SINGLE` (R87, R88, R89): one null frame whatever is asked, and the samples of the
requested channels in the order asked. -/
def Obligations.SamplingReturnsTheRequestedChannels : Prop :=
  ∀ (rx : Frame) (rest : List Answer) (s : State), s.busy = false → s.answers = frameAnswers rx ++ rest →
    (∀ idx : List Chan, exec (.readChannels idx) s =
      .next (deliver .none (.samples (idx.map fun c => (rx[c.toNat + 1]'(by omega)).signExtend 32))
        (afterFrame #v[0, 0, 0, 0, 0, 0] rx rest (beginOp s)))) ∧
    (∀ c : Chan, exec (.readChannelSingle c) s =
      .next (deliver .none (.sample ((rx[c.toNat + 1]'(by omega)).signExtend 32))
        (afterFrame #v[0, 0, 0, 0, 0, 0] rx rest (beginOp s))))

/-- `READ_REG` (R98): a command frame and a null frame; the value is bits 23:8 of the second frame's Word 0. -/
def Obligations.ReadRegReturnsTheSecondFramesValue : Prop :=
  ∀ (a : Addr) (rx1 rx2 : Frame) (rest : List Answer) (s : State), s.busy = false →
    s.answers = frameAnswers rx1 ++ (frameAnswers rx2 ++ rest) →
    exec (.readReg a) s =
      .next (deliver .none (.value (rx2[0].extractLsb' 8 16))
        (afterFrame #v[0, 0, 0, 0, 0, 0] rx2 rest
          (afterFrame #v[mkCmd .rreg a, 0, 0, 0, 0, 0] rx1 (frameAnswers rx2 ++ rest) (beginOp s))))

/-- `WRITE_REG` (R99): a command frame with the payload and a null frame; success exactly when the second frame's Word 0
is the acknowledgement, otherwise `ACK_MISMATCH`, with no effect on the block's other state (R131). -/
def Obligations.WriteRegSucceedsExactlyOnTheAcknowledgement : Prop :=
  ∀ (a : Addr) (v : RegVal) (rx1 rx2 : Frame) (rest : List Answer) (s : State), s.busy = false →
    s.answers = frameAnswers rx1 ++ (frameAnswers rx2 ++ rest) →
    exec (.writeReg a v) s =
      .next (deliver (if rx2[0] = mkAck a then .none else .ackMismatch) (.success (decide (rx2[0] = mkAck a)))
        (afterFrame #v[0, 0, 0, 0, 0, 0] rx2 rest
          (afterFrame #v[mkCmd .wreg a, v.setWidth 24 <<< 8, 0, 0, 0, 0] rx1 (frameAnswers rx2 ++ rest) (beginOp s))))

/-- `SET_GAIN` (R106): the packed gains written to the gain register, all four fields together. -/
def Obligations.SetGainWritesThePackedGains : Prop :=
  ∀ (g0 g1 g2 g3 : Gain) (rx1 rx2 : Frame) (rest : List Answer) (s : State), s.busy = false →
    s.answers = frameAnswers rx1 ++ (frameAnswers rx2 ++ rest) →
    exec (.setGain g0 g1 g2 g3) s =
      .next (deliver (if rx2[0] = mkAck Config.addrGain then .none else .ackMismatch)
        (.success (decide (rx2[0] = mkAck Config.addrGain)))
        (afterFrame #v[0, 0, 0, 0, 0, 0] rx2 rest
          (afterFrame #v[mkCmd .wreg Config.addrGain, (packGain g0 g1 g2 g3).setWidth 24 <<< 8, 0, 0, 0, 0] rx1
            (frameAnswers rx2 ++ rest) (beginOp s))))

/-- `GLOBAL_CHOP` with a legal delay (R108): four frames; the value read in frame 2 is written back in frame 3 with the
chop fields replaced, and frame 4's Word 0 is compared with the acknowledgement. -/
def Obligations.GlobalChopWritesBackTheMergedValue : Prop :=
  ∀ (en : Bool) (d : BitVec 5) (rx1 rx2 rx3 rx4 : Frame) (rest : List Answer) (s : State), legalDelay d = true →
    s.busy = false →
    s.answers = frameAnswers rx1 ++ (frameAnswers rx2 ++ (frameAnswers rx3 ++ (frameAnswers rx4 ++ rest))) →
    exec (.globalChop en d) s =
      .next (deliver (if rx4[0] = mkAck Config.addrCfg then .none else .ackMismatch)
        (.success (decide (rx4[0] = mkAck Config.addrCfg)))
        (afterFrame #v[0, 0, 0, 0, 0, 0] rx4 rest
          (afterFrame
            #v[mkCmd .wreg Config.addrCfg, (packChop (rx2[0].extractLsb' 8 16) en d).setWidth 24 <<< 8, 0, 0, 0, 0] rx3
            (frameAnswers rx4 ++ rest)
            (afterFrame #v[0, 0, 0, 0, 0, 0] rx2 (frameAnswers rx3 ++ (frameAnswers rx4 ++ rest))
              (afterFrame #v[mkCmd .rreg Config.addrCfg, 0, 0, 0, 0, 0] rx1
                (frameAnswers rx2 ++ (frameAnswers rx3 ++ (frameAnswers rx4 ++ rest))) (beginOp s))))))

/-- `GLOBAL_CHOP` with a delay outside 1 to 16 is refused, with no frame (R12, R71). -/
def Obligations.GlobalChopRefusesAnIllegalDelay : Prop :=
  ∀ (en : Bool) (d : BitVec 5) (s : State), d.toNat = 0 ∨ 16 < d.toNat →
    exec (.globalChop en d) s = .refused .delayOutOfRange

/-- `SET_SCLK` (R109): the register takes the value, no value is rejected, no frame and no wire event is made, and the next
frame's `BusConfigure` carries it. -/
def Obligations.SetSclkSetsTheRateOfLaterFrames : Prop :=
  ∀ (hz : Hz) (s : State), s.busy = false →
    exec (.setSclk hz) s = .next { s with sclkHz := hz, response := some ⟨.none, none, .none⟩, frameNo := 0 } ∧
    ∀ (cmd : Word) (t u : State), exec (.setSclk hz) s = .next t → exec (.xchgFrame cmd) t = .next u →
      ∃ (out : BusOutcome) (es : List Event),
        u.trace = s.trace ++ .busConfigure hz .msbFirst Config.busMode out :: es

/-- `SET_CLKIN` (R110): the register takes the value and nothing else changes but the record. -/
def Obligations.SetClkinChangesOnlyItsRegister : Prop :=
  ∀ (hz : Hz) (s : State), s.busy = false →
    exec (.setClkin hz) s = .next { s with clkinHz := hz, response := some ⟨.none, none, .none⟩, frameNo := 0 }

/-! ## The Words of the wire -/

/-- A transmitted row, `NULL`, `RREG a`, `WREG a` or `WDATA v` (R56 to R59), in an open frame at the first byte of Word
`j`: its three bytes are sent unchanged, most significant first, as Word `j` (R37, R75), and the Word received waits
to be stored. Nothing else changes. -/
def Obligations.TransmittedWordIsSentInAnOpenFrame : Prop :=
  ∀ (i : Instr) (t r : Word) (j : Fin 6) (rest : List Answer) (s : State), txRow i = some t → s.stalled = false →
    s.running = none → s.inWord = none → s.sel = true → s.seq = ⟨j, 0⟩ → s.answers = wordAnswers r ++ rest →
    exec i s = .next { s with
      tx := s.tx.set j t, seq := Seq.next ⟨j, 2⟩, inWord := some (j, r), answers := rest, calls := s.calls + 3,
      trace := s.trace ++ wordEvents t r }

/-- A transmitted row where no frame is open: the scope is opened first, the bus configured and then select asserted
(R77), all six transmit Words are loaded, the Word and null fillers behind it (R14, R76), and the Word is Word 0 of the
new frame. -/
def Obligations.TransmittedWordOpensAFrame : Prop :=
  ∀ (i : Instr) (t r : Word) (rest : List Answer) (s : State), txRow i = some t → s.busy = false →
    s.answers = .ok :: (wordAnswers r ++ rest) →
    exec i s = .next { s with
      tx := cmdFrame t, seq := ⟨1, 0⟩, sel := true, busHeld := true, frameNo := 1, response := none,
      inWord := some (0, r), answers := rest, calls := s.calls + 4,
      trace := s.trace ++ [.busConfigure s.sclkHz .msbFirst Config.busMode .ok, .selAssert] ++ wordEvents t r }

/-- A received row, `WACK a`, `RDATA`, `STATUS`, `CHDATA` or `CRC` (R61 to R63), for Word 0 to 4 of its frame: it is stored
as it came (R15) and read by the decoder of its index (R54): Word 0 by `CORRELATE`, a channel Word by `DECODE24`.
Nothing else changes. -/
def Obligations.ReceivedWordIsStoredAndRead : Prop :=
  ∀ (i : Instr) (w w' : Word) (j : Fin 6) (s : State), rxRow i = some w → s.stalled = false →
    s.running = none → s.inWord = some (j, w') → j ≠ 5 →
    exec i s = .next { s with
      rx := s.rx.set j w, inWord := none,
      reading := some (if j = 0 then .resp (correlate s.pend w) else .sample (decode24 w)) }

/-- A received row as Word 5 (R54, R76, R95): it is stored and read by nothing, the scope is released, `PEND` names the
frame's command, and the six Words are delivered with Word 0 correlated. -/
def Obligations.ReceivedWordFiveEndsTheFrame : Prop :=
  ∀ (i : Instr) (w w' : Word) (s : State), rxRow i = some w → s.stalled = false → s.running = none →
    s.inWord = some (5, w') →
    exec i s = .next { s with
      rx := s.rx.set 5 w, inWord := none, reading := some .crc, pend := kindOf s.tx[0], sel := false,
      busHeld := false, frameNo := 0, device := s.device.map (deviceAfter s.tx),
      trace := s.trace ++ [.selDeassert, .busRelease],
      response := some ⟨.none, none, .frame (s.rx.set 5 w) (correlate s.pend s.rx[0])⟩ }

/-- A received row is refused where no Word has been received, and a transmitted row while one waits (log 13). -/
def Obligations.WordsOutOfTurnAreRefused : Prop :=
  (∀ (i : Instr) (w : Word) (s : State), rxRow i = some w → s.stalled = false → s.running = none → s.inWord = none →
    exec i s = .refused .noWordReceived) ∧
  (∀ (i : Instr) (t : Word) (s : State), txRow i = some t → s.stalled = false → s.running = none →
    s.inWord.isSome = true →
    exec i s = .refused .wordNotStored)

/-- A frame made Word by Word is the frame `XCHG_FRAME` makes: from the opened frame, twelve steps of one Word each (the
grain `operation`, log 2), six Words sent and six stored, reach the state and the record of the host operation; so do a
transmitted row that opens its frame itself and eleven steps after it. It holds whatever the answers are, faults among
them; the premise excludes only the operation that never ends. -/
def Obligations.TwelveWordStepsMakeOneFrame : Prop :=
  ∀ (cmd : Word) (s t : State), s.busy = false → s.grain = .operation → s.requests = [] →
    exec (.xchgFrame cmd) s = .next t → t.stalled = false →
    (∀ s1, openFrame { beginOp s with tx := cmdFrame cmd } = .done () s1 → stepN 12 s1 = .next t) ∧
    (∀ i, txRow i = some cmd → ∃ u, exec i s = .next u ∧ stepN 11 u = .next t)

/-! ## Faults and stalls -/

/-- Fault exit F0 (R79, R130): the bus cannot be claimed. Every operation that makes a frame ends with the transport's
value unchanged, having made that one call: select is never asserted, no byte is sent, `PEND` is cleared, a write
reports no success. -/
def Obligations.BusConfigureFaultEndsTheOperation : Prop :=
  ∀ (i : Instr) (e : TErr) (rest : List Answer) (s : State), wellFormed i = true → 0 < framesOf i → Quiescent s →
    s.answers = .fault e :: rest →
    ∃ t res, exec i s = .next t ∧ t.response = some ⟨.transportFault, some e, res⟩ ∧
      (∀ b, res = .success b → b = false) ∧ Quiescent t ∧ t.pend = ⟨.none, 0⟩ ∧
      t.trace = s.trace ++ [.busConfigure s.sclkHz .msbFirst Config.busMode (.fault e)] ∧
      t.answers = rest ∧ t.sclkHz = s.sclkHz ∧ t.clkinHz = s.clkinHz ∧ t.requests = s.requests ∧ t.device = s.device

/-- Fault exit F1 (R79, R130) at any of the 18 bytes of the first frame: the bytes before it were exchanged, no further
byte is, select is deasserted and the bus released, `PEND` is cleared, no further frame is made. -/
def Obligations.ByteFaultEndsTheOperation : Prop :=
  ∀ (i : Instr) (e : TErr) (k : Fin 18) (rx : Frame) (rest : List Answer) (s : State), wellFormed i = true →
    0 < framesOf i → Quiescent s → s.answers = cutAnswers rx k (.fault e) ++ rest →
    ∃ t res, exec i s = .next t ∧ t.response = some ⟨.transportFault, some e, res⟩ ∧
      (∀ b, res = .success b → b = false) ∧ Quiescent t ∧ t.pend = ⟨.none, 0⟩ ∧ t.seq = seqAt k ∧
      t.trace = s.trace ++ cutEvents s.sclkHz (firstFrame i) rx k (.fault e) ++ [.selDeassert, .busRelease] ∧
      t.answers = rest ∧ t.sclkHz = s.sclkHz ∧ t.clkinHz = s.clkinHz ∧ t.requests = s.requests

/-- A fault in the second frame of `READ_REG`, `WRITE_REG`, `SET_GAIN` or `GLOBAL_CHOP` (R98, R99, R101, R108): the first
frame has been made whole; the second is not opened (F0) or is cut (F1), and nothing follows; so `GLOBAL_CHOP`
writes nothing. Faults in frames 3 and 4 of `GLOBAL_CHOP` are those of its `WRITE_REG`
(`DerivedOperationsAreTheirExpansions`). -/
def Obligations.SecondFrameFaultMakesNoFurtherFrame : Prop :=
  ∀ (i : Instr) (e : TErr) (rx1 : Frame) (rest : List Answer) (s : State), wellFormed i = true →
    2 ≤ framesOf i → Quiescent s →
    (s.answers = frameAnswers rx1 ++ .fault e :: rest →
      ∃ t res, exec i s = .next t ∧ t.response = some ⟨.transportFault, some e, res⟩ ∧
        (∀ b, res = .success b → b = false) ∧ Quiescent t ∧ t.pend = ⟨.none, 0⟩ ∧
        t.trace = s.trace ++ frameEvents s.sclkHz (firstFrame i) rx1 ++
          [.busConfigure s.sclkHz .msbFirst Config.busMode (.fault e)] ∧
        t.answers = rest ∧ t.sclkHz = s.sclkHz ∧ t.clkinHz = s.clkinHz ∧ t.requests = s.requests ∧
        t.device = s.device.map (deviceAfter (firstFrame i))) ∧
    (∀ (k : Fin 18) (rx2 : Frame), s.answers = frameAnswers rx1 ++ (cutAnswers rx2 k (.fault e) ++ rest) →
      ∃ t res, exec i s = .next t ∧ t.response = some ⟨.transportFault, some e, res⟩ ∧
        (∀ b, res = .success b → b = false) ∧ Quiescent t ∧ t.pend = ⟨.none, 0⟩ ∧ t.seq = seqAt k ∧
        t.trace = s.trace ++ frameEvents s.sclkHz (firstFrame i) rx1 ++
          cutEvents s.sclkHz #v[0, 0, 0, 0, 0, 0] rx2 k (.fault e) ++ [.selDeassert, .busRelease] ∧
        t.answers = rest ∧ t.sclkHz = s.sclkHz ∧ t.clkinHz = s.clkinHz ∧ t.requests = s.requests)

/-- A stall in the first frame (R80): the operation never ends. At a `BusConfigure` nothing is held and the sequencer is as
it was; at byte `k` select stays asserted, the bus held and the sequencer at that byte. No record is made, `PEND` is
as before, and there is no next step. -/
def Obligations.StallLeavesTheScopeAsItWas : Prop :=
  ∀ (i : Instr) (rest : List Answer) (s : State), wellFormed i = true → 0 < framesOf i → Quiescent s →
    (s.answers = .stall :: rest →
      ∃ t, exec i s = .next t ∧ t.stalled = true ∧ t.response = none ∧ t.sel = false ∧ t.busHeld = false ∧
        t.seq = s.seq ∧ t.pend = s.pend ∧
        t.trace = s.trace ++ [.busConfigure s.sclkHz .msbFirst Config.busMode .stall] ∧
        step t = .fault .stalled) ∧
    (∀ (k : Fin 18) (rx : Frame), s.answers = cutAnswers rx k .stall ++ rest →
      ∃ t, exec i s = .next t ∧ t.stalled = true ∧ t.response = none ∧ t.sel = true ∧ t.busHeld = true ∧
        t.seq = seqAt k ∧ t.pend = s.pend ∧
        t.trace = s.trace ++ cutEvents s.sclkHz (firstFrame i) rx k .stall ∧ step t = .fault .stalled)

/-- A stall in the second frame of `READ_REG`, `WRITE_REG`, `SET_GAIN` or `GLOBAL_CHOP` (R80): the first frame has been made
whole, `PEND` names its command, and the scope and the sequencer stay as they are at the stall. (Between the frames
the sequencer stands where the first one ended, log 7.) Stalls in frames 3 and 4 of `GLOBAL_CHOP` are those of its
`WRITE_REG` (`DerivedOperationsAreTheirExpansions`). -/
def Obligations.SecondFrameStallLeavesTheScopeAsItWas : Prop :=
  ∀ (i : Instr) (rx1 : Frame) (rest : List Answer) (s : State), wellFormed i = true → 2 ≤ framesOf i → Quiescent s →
    (s.answers = frameAnswers rx1 ++ .stall :: rest →
      ∃ t, exec i s = .next t ∧ t.stalled = true ∧ t.response = none ∧ t.sel = false ∧ t.busHeld = false ∧
        t.seq = ⟨5, 2⟩ ∧ t.pend = kindOf (firstFrame i)[0] ∧
        t.trace = s.trace ++ frameEvents s.sclkHz (firstFrame i) rx1 ++
          [.busConfigure s.sclkHz .msbFirst Config.busMode .stall] ∧
        step t = .fault .stalled) ∧
    (∀ (k : Fin 18) (rx2 : Frame), s.answers = frameAnswers rx1 ++ (cutAnswers rx2 k .stall ++ rest) →
      ∃ t, exec i s = .next t ∧ t.stalled = true ∧ t.response = none ∧ t.sel = true ∧ t.busHeld = true ∧
        t.seq = seqAt k ∧ t.pend = kindOf (firstFrame i)[0] ∧
        t.trace = s.trace ++ frameEvents s.sclkHz (firstFrame i) rx1 ++
          cutEvents s.sclkHz #v[0, 0, 0, 0, 0, 0] rx2 k .stall ∧
        step t = .fault .stalled)

/-- If no primitive fails or stalls, every host operation ends with a record that is no transport fault, and the block is
quiescent (R164, R165). -/
def Obligations.OperationEndsWhenThePrimitivesComplete : Prop :=
  ∀ (i : Instr) (s : State), isHostOp i = true → wellFormed i = true → Quiescent s → goodCalls (19 * framesOf i) s →
    ∃ t r, exec i s = .next t ∧ Quiescent t ∧ t.response = some r ∧ r.cause ≠ .transportFault

/-- Which operation can report which cause (R129 to R131, R97): `ACK_MISMATCH` only a write, `TRANSPORT_FAULT` only an
operation that makes a frame. -/
def Obligations.CausesComeOnlyFromTheirOperations : Prop :=
  ∀ (i : Instr) (s t : State) (r : Response), isHostOp i = true → exec i s = .next t → t.response = some r →
    (r.cause = .ackMismatch → (∃ a v, i = .writeReg a v) ∨ (∃ g0 g1 g2 g3, i = .setGain g0 g1 g2 g3) ∨
      ∃ en d, i = .globalChop en d) ∧
    (r.cause = .transportFault → 0 < framesOf i ∧ t.pend = ⟨.none, 0⟩)

/-! ## Properties of every instruction -/

/-- The wire trace only grows (R46): no event made is ever taken back or changed; and a step of an operation in progress,
or any step at the grain `primitive`, makes at most one event, since it is at most one primitive (R8). -/
def Obligations.TheTraceOnlyGrows : Prop :=
  (∀ (i : Instr) (s t : State), exec i s = .next t → s.trace <+: t.trace) ∧
  (∀ s t : State, s.running.isSome = true ∨ s.grain = .primitive → step s = .next t →
    t.trace = s.trace ∨ ∃ e, t.trace = s.trace ++ [e])

/-- An operation that ends without a transport fault has claimed the bus exactly once for each frame of its list, and one
that ends with it at most that often (R69, R89, R101). -/
def Obligations.OperationsMakeTheirListedFrames : Prop :=
  ∀ (i : Instr) (s t : State) (r : Response), isHostOp i = true → exec i s = .next t → t.response = some r →
    t.trace.countP isClaim ≤ s.trace.countP isClaim + framesOf i ∧
    (r.cause ≠ .transportFault → t.trace.countP isClaim = s.trace.countP isClaim + framesOf i)

/-- In a disciplined trace that ends with no scope held, every assert has its deassert and every successful configure its
release (R82). -/
def Obligations.ReleasedTracesAreBalanced : Prop :=
  ∀ tr : List Event, scan .idle tr = some .idle →
    tr.countP isSelAssert = tr.countP isSelDeassert ∧ tr.countP isClaim = tr.countP isRelease

/-- The clock-rate registers are written only by their setters (R18, R19). -/
def Obligations.ClockRatesAreWrittenOnlyByTheirSetters : Prop :=
  ∀ (i : Instr) (s t : State), exec i s = .next t →
    ((∀ hz, i ≠ .setSclk hz) → t.sclkHz = s.sclkHz) ∧ ((∀ hz, i ≠ .setClkin hz) → t.clkinHz = s.clkinHz)

/-- `CLKIN_HZ` is read by nothing (R19): with another value in it every instruction but its setter does exactly the same,
on the wire, in its record and in every other register. -/
def Obligations.ClkinHasNoEffect : Prop :=
  ∀ (i : Instr) (s : State) (c : Hz), (∀ hz, i ≠ .setClkin hz) →
    exec i { s with clkinHz := c } = mapNext (fun t => { t with clkinHz := c }) (exec i s)

/-- The correlator after each host operation that ends (R104): `SEND_COMMAND` leaves its command, `XCHG_FRAME` the class of
its Word, the setters leave `PEND` as it was, every other operation and every transport fault leaves Idle. -/
def Obligations.CorrelatorAfterEachOperation : Prop :=
  ∀ (s t : State) (r : Response), t.response = some r →
    (∀ k a v, exec (.sendCommand k a v) s = .next t → r.cause = .none →
      t.pend = ⟨if k = .rreg then .rreg else .wreg, a⟩ ∧ pstateOf t.pend = .commandSent) ∧
    (∀ cmd, exec (.xchgFrame cmd) s = .next t → r.cause = .none →
      t.pend = kindOf cmd ∧ (pstateOf t.pend = .idle ↔ cmd = 0x000000)) ∧
    (∀ hz, exec (.setSclk hz) s = .next t ∨ exec (.setClkin hz) s = .next t → t.pend = s.pend) ∧
    (∀ i, isHostOp i = true → exec i s = .next t → r.cause = .transportFault → t.pend = ⟨.none, 0⟩) ∧
    (∀ i, i = .fetchResponse ∨ (∃ idx, i = .readChannels idx) ∨ (∃ c, i = .readChannelSingle c) ∨ 2 ≤ framesOf i →
      exec i s = .next t → t.pend = ⟨.none, 0⟩)

/-- The pseudo-operations of R74: `READ_REG` is `SEND_COMMAND RREG` and `FETCH_RESPONSE` with `resp.value` as its result, and
`WRITE_REG` is `SEND_COMMAND WREG` and `FETCH_RESPONSE` with `resp.ack`, for every answer of the environment under
which both parts succeed; `READ_CHANNEL_SINGLE c` is element 0 of `READ_CHANNELS [c]`. -/
def Obligations.RegisterAccessIsCommandThenFetch : Prop :=
  (∀ (a : Addr) (s u t : State) (r : Resp), exec (.sendCommand .rreg a 0) s = .next u →
    u.response = some ⟨.none, none, .none⟩ → exec .fetchResponse u = .next t →
    t.response = some ⟨.none, none, .resp r⟩ →
    ∃ t', exec (.readReg a) s = .next t' ∧ t' = { t with response := some ⟨.none, none, .value r.value⟩ }) ∧
  (∀ (a : Addr) (v : RegVal) (s u t : State) (r : Resp), exec (.sendCommand .wreg a v) s = .next u →
    u.response = some ⟨.none, none, .none⟩ → exec .fetchResponse u = .next t →
    t.response = some ⟨.none, none, .resp r⟩ →
    ∃ t', exec (.writeReg a v) s = .next t' ∧
      t' = { t with response := some ⟨ackCause r.ack, none, .success r.ack⟩ }) ∧
  (∀ (c : Chan) (s t : State) (xs : List Sample), exec (.readChannels [c]) s = .next t →
    t.response = some ⟨.none, none, .samples xs⟩ →
    ∃ x, xs = [x] ∧ exec (.readChannelSingle c) s = .next { t with response := some ⟨.none, none, .sample x⟩ })

/-- The other expansions of R74: `SET_GAIN` is `WRITE_REG` of the packed gains; `GLOBAL_CHOP` is `READ_REG` and, where that
succeeds, `WRITE_REG` of the merged value, whatever comes of it, faults and stalls among it (where it stalls, the model's
frame position counts on, log 17); `FETCH_RESPONSE` is `XCHG_FRAME 0` with
`resp` as its result; `SEND_COMMAND RREG` is `XCHG_FRAME` of the built command with the results discarded. -/
def Obligations.DerivedOperationsAreTheirExpansions : Prop :=
  (∀ (g0 g1 g2 g3 : Gain) (s : State),
    exec (.setGain g0 g1 g2 g3) s = exec (.writeReg Config.addrGain (packGain g0 g1 g2 g3)) s) ∧
  (∀ (en : Bool) (d : BitVec 5) (old : RegVal) (s u t : State), legalDelay d = true →
    exec (.readReg Config.addrCfg) s = .next u → u.response = some ⟨.none, none, .value old⟩ →
    exec (.writeReg Config.addrCfg (packChop old en d)) u = .next t →
    exec (.globalChop en d) s = .next (if t.stalled then { t with frameNo := t.frameNo + 2 } else t)) ∧
  (∀ (s t : State) (rx : Frame) (r : Resp), exec (.xchgFrame 0x000000) s = .next t →
    t.response = some ⟨.none, none, .frame rx r⟩ →
    exec .fetchResponse s = .next { t with response := some ⟨.none, none, .resp r⟩ }) ∧
  (∀ (a : Addr) (v : RegVal) (s t : State) (rx : Frame) (r : Resp), exec (.xchgFrame (mkCmd .rreg a)) s = .next t →
    t.response = some ⟨.none, none, .frame rx r⟩ →
    exec (.sendCommand .rreg a v) s = .next { t with response := some ⟨.none, none, .none⟩ })

/-- The CRC Word is carried and never examined (R81, R63): of two runs of an operation that differ only in the Words 5
received, whatever the number of frames, both complete in states that differ only in `RX[5]` and in the bytes that
the trace records as received. `XCHG_FRAME` alone is left out: it hands the Word to the host (R100). -/
def Obligations.CrcWordIsNotExamined : Prop :=
  ∀ (i : Instr) (rxs : List (Frame × Word)) (last : Frame × Word) (rest : List Answer) (s : State),
    wellFormed i = true → (∀ cmd, i ≠ .xchgFrame cmd) → rxs.length + 1 = framesOf i → s.busy = false →
    ∃ t t', exec i { s with answers := (rxs ++ [last]).flatMap (fun p => frameAnswers p.1) ++ rest } = .next t ∧
      exec i { s with answers := (rxs ++ [last]).flatMap (fun p => frameAnswers (p.1.set 5 p.2)) ++ rest } =
        .next t' ∧
      t' = { t with rx := t.rx.set 5 last.2, trace := t'.trace } ∧
      t'.trace.map eraseReceived = t.trace.map eraseReceived

/-- Pipeline misuse (R103, R156, R133, R90): a frame between a command and the fetch meant for it takes the response. After
a sampling operation the fetched Word is tagged as the answer to no command; after a second command it is tagged with
that one. No error is reported. -/
def Obligations.InterposedFrameTakesTheResponse : Prop :=
  ∀ (k k' : CmdKind) (a a' : Addr) (v v' : RegVal) (idx : List Chan) (rx1 rx2 rx3 : Frame) (rest : List Answer)
    (s : State), s.busy = false → s.answers = frameAnswers rx1 ++ (frameAnswers rx2 ++ (frameAnswers rx3 ++ rest)) →
    (∃ t, runOps [.sendCommand k a v, .readChannels idx, .fetchResponse] s = .next t ∧
      t.response = some ⟨.none, none, .resp (correlate ⟨.none, 0⟩ rx3[0])⟩) ∧
    (∃ t, runOps [.sendCommand k a v, .sendCommand k' a' v', .fetchResponse] s = .next t ∧
      t.response = some ⟨.none, none, .resp (correlate ⟨if k' = .rreg then .rreg else .wreg, a'⟩ rx3[0])⟩)

/-! ## The reference device -/

/-- The reference device's step (R125): the Words it returns, the register a write command names and no other register
written with bits 23:8 of Word 1, every register unchanged by any other command, and the command latched. And its
initial state (R124): nothing latched, the registers as stated, so that Word 0 of its first frame is the status Word. -/
def Obligations.ReferenceDeviceStep : Prop :=
  (∀ (t : Frame) (d : Device),
    (deviceFrame t d).1[0] = (match d.pend.kind with
      | .none => d.now.status
      | .rreg => (memRead d d.pend.addr).setWidth 24 <<< 8
      | .wreg => 0x400000 ||| (d.pend.addr.setWidth 24 <<< 15)
      | .other => d.now.status) ∧
    (∀ c : Fin 4, (deviceFrame t d).1[c.val + 1] = d.now.ch[c]) ∧ (deviceFrame t d).1[5] = d.now.crc ∧
    (deviceFrame t d).2.pend = kindOf t[0] ∧
    (∀ a, memRead (deviceFrame t d).2 a =
      if (kindOf t[0]).kind = .wreg ∧ a = (kindOf t[0]).addr then t[1].extractLsb' 8 16 else memRead d a)) ∧
  (∀ (reg : Vector RegVal 32) (now : DeviceInputs) (later : List DeviceInputs) (t : Frame) (s : State),
    (s.attach reg now later).device = some (Device.initial reg now later) ∧
    (Device.initial reg now later).pend = ⟨.none, 0⟩ ∧
    (∀ a, memRead (Device.initial reg now later) a = reg[a.toNat]'(by omega)) ∧
    (deviceFrame t (Device.initial reg now later)).1[0] = now.status)

/-- The reference device meets the contract on Word 0 (R118, R119): after `RREG a` the value of `a`, after `WREG a` the
acknowledgement the block expects. -/
def Obligations.ReferenceDeviceMeetsTheContract : Prop :=
  ∀ (t : Frame) (d : Device), honestWord0 d.reg d.pend (deviceFrame t d).1[0] ∧
    (∀ a, kindOf t[0] = ⟨.wreg, a⟩ → isAck (deviceFrame t (deviceFrame t d).2).1[0] a = true)

/-- Write then read (R126): with the reference device attached and answering, `WRITE_REG a, v`, then any number of
`READ_CHANNELS`, then `READ_REG a` returns success and then `v`, for every address, value and device state. -/
def Obligations.WriteThenReadReturnsTheValue : Prop :=
  ∀ (a : Addr) (v : RegVal) (idxs : List (List Chan)) (d : Device) (s : State), Quiescent s → s.device = some d →
    s.answers = [] →
    ∃ t1 t2 t3, exec (.writeReg a v) s = .next t1 ∧ t1.response = some ⟨.none, none, .success true⟩ ∧
      runOps (idxs.map .readChannels) t1 = .next t2 ∧
      exec (.readReg a) t2 = .next t3 ∧ t3.response = some ⟨.none, none, .value v⟩

/-- `GLOBAL_CHOP` on the reference device (R108, R27): it succeeds, the configuration register holds its old value with
only the chop fields replaced, and every other register is unchanged. -/
def Obligations.GlobalChopPreservesUnrelatedBits : Prop :=
  ∀ (en : Bool) (d : BitVec 5) (dev : Device) (s : State), legalDelay d = true → Quiescent s → s.device = some dev →
    s.answers = [] →
    ∃ t dev', exec (.globalChop en d) s = .next t ∧ t.response = some ⟨.none, none, .success true⟩ ∧
      t.device = some dev' ∧
      memRead dev' Config.addrCfg &&& 0x0EFF = memRead dev Config.addrCfg &&& 0x0EFF ∧
      ((memRead dev' Config.addrCfg).extractLsb' 12 4).toNat = d.toNat - 1 ∧
      (memRead dev' Config.addrCfg).getLsbD 8 = en ∧
      ∀ a, a ≠ Config.addrCfg → memRead dev' a = memRead dev a

/-- A bare write command writes zero (R159): `XCHG_FRAME` with a write command carries a null filler where the payload
belongs, so the reference device's register reads 0 afterwards and no other register changes. -/
def Obligations.BareWriteCommandWritesZero : Prop :=
  ∀ (a : Addr) (dev : Device) (s : State), Quiescent s → s.device = some dev → s.answers = [] →
    ∃ t dev', exec (.xchgFrame (mkCmd .wreg a)) s = .next t ∧ t.device = some dev' ∧ memRead dev' a = 0 ∧
      ∀ b, b ≠ a → memRead dev' b = memRead dev b
end

