-- ==== Sys2Proof/Laws/State.lean ====
section
/-! SUPPORT. One lemma per field per named update of the state, so that no proof unfolds a record update. -/

namespace Sys2Proof.Machine

/-! ## `engaged` -/

/-- An instruction can be issued when no operation is between two of its steps and none hangs (R8, R80). -/
@[simp] theorem engaged_eq_false (s : State) : s.engaged = false ↔ s.stalled = false ∧ s.running = none := by
  simp [State.engaged]

/-! ## `called` -/

@[simp] theorem called_tx (s : State) : (State.called s).tx = s.tx := rfl
@[simp] theorem called_rx (s : State) : (State.called s).rx = s.rx := rfl
@[simp] theorem called_seq (s : State) : (State.called s).seq = s.seq := rfl
@[simp] theorem called_sclkHz (s : State) : (State.called s).sclkHz = s.sclkHz := rfl
@[simp] theorem called_clkinHz (s : State) : (State.called s).clkinHz = s.clkinHz := rfl
@[simp] theorem called_pend (s : State) : (State.called s).pend = s.pend := rfl
@[simp] theorem called_sel (s : State) : (State.called s).sel = s.sel := rfl
@[simp] theorem called_busHeld (s : State) : (State.called s).busHeld = s.busHeld := rfl
@[simp] theorem called_frameNo (s : State) : (State.called s).frameNo = s.frameNo := rfl
@[simp] theorem called_inWord (s : State) : (State.called s).inWord = s.inWord := rfl
@[simp] theorem called_stalled (s : State) : (State.called s).stalled = s.stalled := rfl
@[simp] theorem called_running (s : State) : (State.called s).running = s.running := rfl
@[simp] theorem called_grain (s : State) : (State.called s).grain = s.grain := rfl
@[simp] theorem called_requests (s : State) : (State.called s).requests = s.requests := rfl
@[simp] theorem called_response (s : State) : (State.called s).response = s.response := rfl
@[simp] theorem called_reading (s : State) : (State.called s).reading = s.reading := rfl
@[simp] theorem called_answers (s : State) : (State.called s).answers = s.answers.tail := rfl
@[simp] theorem called_device (s : State) : (State.called s).device = s.device := rfl
@[simp] theorem called_calls (s : State) : (State.called s).calls = s.calls + 1 := rfl
@[simp] theorem called_draws (s : State) : (State.called s).draws = s.draws := rfl
@[simp] theorem called_trace (s : State) : (State.called s).trace = s.trace := rfl

/-! ## `event` -/

@[simp] theorem event_tx (s : State) (e : Event) : (State.event s e).tx = s.tx := rfl
@[simp] theorem event_rx (s : State) (e : Event) : (State.event s e).rx = s.rx := rfl
@[simp] theorem event_seq (s : State) (e : Event) : (State.event s e).seq = s.seq := rfl
@[simp] theorem event_sclkHz (s : State) (e : Event) : (State.event s e).sclkHz = s.sclkHz := rfl
@[simp] theorem event_clkinHz (s : State) (e : Event) : (State.event s e).clkinHz = s.clkinHz := rfl
@[simp] theorem event_pend (s : State) (e : Event) : (State.event s e).pend = s.pend := rfl
@[simp] theorem event_sel (s : State) (e : Event) : (State.event s e).sel = s.sel := rfl
@[simp] theorem event_busHeld (s : State) (e : Event) : (State.event s e).busHeld = s.busHeld := rfl
@[simp] theorem event_frameNo (s : State) (e : Event) : (State.event s e).frameNo = s.frameNo := rfl
@[simp] theorem event_inWord (s : State) (e : Event) : (State.event s e).inWord = s.inWord := rfl
@[simp] theorem event_stalled (s : State) (e : Event) : (State.event s e).stalled = s.stalled := rfl
@[simp] theorem event_running (s : State) (e : Event) : (State.event s e).running = s.running := rfl
@[simp] theorem event_grain (s : State) (e : Event) : (State.event s e).grain = s.grain := rfl
@[simp] theorem event_requests (s : State) (e : Event) : (State.event s e).requests = s.requests := rfl
@[simp] theorem event_response (s : State) (e : Event) : (State.event s e).response = s.response := rfl
@[simp] theorem event_reading (s : State) (e : Event) : (State.event s e).reading = s.reading := rfl
@[simp] theorem event_answers (s : State) (e : Event) : (State.event s e).answers = s.answers := rfl
@[simp] theorem event_device (s : State) (e : Event) : (State.event s e).device = s.device := rfl
@[simp] theorem event_calls (s : State) (e : Event) : (State.event s e).calls = s.calls := rfl
@[simp] theorem event_draws (s : State) (e : Event) : (State.event s e).draws = s.draws := rfl
@[simp] theorem event_trace (s : State) (e : Event) : (State.event s e).trace = s.trace ++ [e] := rfl

/-! ## `selAssert` -/

@[simp] theorem selAssert_tx (s : State) : (selAssert s).tx = s.tx := rfl
@[simp] theorem selAssert_rx (s : State) : (selAssert s).rx = s.rx := rfl
@[simp] theorem selAssert_seq (s : State) : (selAssert s).seq = ⟨0, 0⟩ := rfl
@[simp] theorem selAssert_sclkHz (s : State) : (selAssert s).sclkHz = s.sclkHz := rfl
@[simp] theorem selAssert_clkinHz (s : State) : (selAssert s).clkinHz = s.clkinHz := rfl
@[simp] theorem selAssert_pend (s : State) : (selAssert s).pend = s.pend := rfl
@[simp] theorem selAssert_sel (s : State) : (selAssert s).sel = true := rfl
@[simp] theorem selAssert_busHeld (s : State) : (selAssert s).busHeld = s.busHeld := rfl
@[simp] theorem selAssert_frameNo (s : State) : (selAssert s).frameNo = s.frameNo := rfl
@[simp] theorem selAssert_inWord (s : State) : (selAssert s).inWord = s.inWord := rfl
@[simp] theorem selAssert_stalled (s : State) : (selAssert s).stalled = s.stalled := rfl
@[simp] theorem selAssert_running (s : State) : (selAssert s).running = s.running := rfl
@[simp] theorem selAssert_grain (s : State) : (selAssert s).grain = s.grain := rfl
@[simp] theorem selAssert_requests (s : State) : (selAssert s).requests = s.requests := rfl
@[simp] theorem selAssert_response (s : State) : (selAssert s).response = s.response := rfl
@[simp] theorem selAssert_reading (s : State) : (selAssert s).reading = s.reading := rfl
@[simp] theorem selAssert_answers (s : State) : (selAssert s).answers = s.answers := rfl
@[simp] theorem selAssert_device (s : State) : (selAssert s).device = s.device := rfl
@[simp] theorem selAssert_calls (s : State) : (selAssert s).calls = s.calls := rfl
@[simp] theorem selAssert_draws (s : State) : (selAssert s).draws = s.draws := rfl
@[simp] theorem selAssert_trace (s : State) : (selAssert s).trace = s.trace ++ [.selAssert] := rfl

/-! ## `releaseScope` -/

@[simp] theorem releaseScope_tx (s : State) : (releaseScope s).tx = s.tx := rfl
@[simp] theorem releaseScope_rx (s : State) : (releaseScope s).rx = s.rx := rfl
@[simp] theorem releaseScope_seq (s : State) : (releaseScope s).seq = s.seq := rfl
@[simp] theorem releaseScope_sclkHz (s : State) : (releaseScope s).sclkHz = s.sclkHz := rfl
@[simp] theorem releaseScope_clkinHz (s : State) : (releaseScope s).clkinHz = s.clkinHz := rfl
@[simp] theorem releaseScope_pend (s : State) : (releaseScope s).pend = s.pend := rfl
@[simp] theorem releaseScope_sel (s : State) : (releaseScope s).sel = false := rfl
@[simp] theorem releaseScope_busHeld (s : State) : (releaseScope s).busHeld = false := rfl
@[simp] theorem releaseScope_frameNo (s : State) : (releaseScope s).frameNo = s.frameNo := rfl
@[simp] theorem releaseScope_inWord (s : State) : (releaseScope s).inWord = s.inWord := rfl
@[simp] theorem releaseScope_stalled (s : State) : (releaseScope s).stalled = s.stalled := rfl
@[simp] theorem releaseScope_running (s : State) : (releaseScope s).running = s.running := rfl
@[simp] theorem releaseScope_grain (s : State) : (releaseScope s).grain = s.grain := rfl
@[simp] theorem releaseScope_requests (s : State) : (releaseScope s).requests = s.requests := rfl
@[simp] theorem releaseScope_response (s : State) : (releaseScope s).response = s.response := rfl
@[simp] theorem releaseScope_reading (s : State) : (releaseScope s).reading = s.reading := rfl
@[simp] theorem releaseScope_answers (s : State) : (releaseScope s).answers = s.answers := rfl
@[simp] theorem releaseScope_device (s : State) : (releaseScope s).device = s.device := rfl
@[simp] theorem releaseScope_calls (s : State) : (releaseScope s).calls = s.calls := rfl
@[simp] theorem releaseScope_draws (s : State) : (releaseScope s).draws = s.draws := rfl
@[simp] theorem releaseScope_trace (s : State) :
    (releaseScope s).trace = s.trace ++ [.selDeassert] ++ [.busRelease] := rfl

/-! ## `closeFrame` -/

@[simp] theorem closeFrame_tx (s : State) : (closeFrame s).tx = s.tx := rfl
@[simp] theorem closeFrame_rx (s : State) : (closeFrame s).rx = s.rx := rfl
@[simp] theorem closeFrame_seq (s : State) : (closeFrame s).seq = s.seq := rfl
@[simp] theorem closeFrame_sclkHz (s : State) : (closeFrame s).sclkHz = s.sclkHz := rfl
@[simp] theorem closeFrame_clkinHz (s : State) : (closeFrame s).clkinHz = s.clkinHz := rfl
@[simp] theorem closeFrame_pend (s : State) : (closeFrame s).pend = s.pend := rfl
@[simp] theorem closeFrame_sel (s : State) : (closeFrame s).sel = false := rfl
@[simp] theorem closeFrame_busHeld (s : State) : (closeFrame s).busHeld = false := rfl
@[simp] theorem closeFrame_frameNo (s : State) : (closeFrame s).frameNo = s.frameNo := rfl
@[simp] theorem closeFrame_inWord (s : State) : (closeFrame s).inWord = s.inWord := rfl
@[simp] theorem closeFrame_stalled (s : State) : (closeFrame s).stalled = s.stalled := rfl
@[simp] theorem closeFrame_running (s : State) : (closeFrame s).running = s.running := rfl
@[simp] theorem closeFrame_grain (s : State) : (closeFrame s).grain = s.grain := rfl
@[simp] theorem closeFrame_requests (s : State) : (closeFrame s).requests = s.requests := rfl
@[simp] theorem closeFrame_response (s : State) : (closeFrame s).response = s.response := rfl
@[simp] theorem closeFrame_reading (s : State) : (closeFrame s).reading = s.reading := rfl
@[simp] theorem closeFrame_answers (s : State) : (closeFrame s).answers = s.answers := rfl
@[simp] theorem closeFrame_device (s : State) : (closeFrame s).device = s.device.map (deviceAfter s.tx) := rfl
@[simp] theorem closeFrame_calls (s : State) : (closeFrame s).calls = s.calls := rfl
@[simp] theorem closeFrame_draws (s : State) : (closeFrame s).draws = s.draws := rfl
@[simp] theorem closeFrame_trace (s : State) :
    (closeFrame s).trace = s.trace ++ [.selDeassert] ++ [.busRelease] := rfl

/-! ## `storeWord` -/

@[simp] theorem storeWord_tx (i : Fin 6) (w : Word) (s : State) : (storeWord i w s).tx = s.tx := rfl
@[simp] theorem storeWord_rx (i : Fin 6) (w : Word) (s : State) : (storeWord i w s).rx = s.rx.set i w := rfl
@[simp] theorem storeWord_seq (i : Fin 6) (w : Word) (s : State) : (storeWord i w s).seq = s.seq := rfl
@[simp] theorem storeWord_sclkHz (i : Fin 6) (w : Word) (s : State) : (storeWord i w s).sclkHz = s.sclkHz := rfl
@[simp] theorem storeWord_clkinHz (i : Fin 6) (w : Word) (s : State) :
    (storeWord i w s).clkinHz = s.clkinHz := rfl
@[simp] theorem storeWord_pend (i : Fin 6) (w : Word) (s : State) : (storeWord i w s).pend = s.pend := rfl
@[simp] theorem storeWord_sel (i : Fin 6) (w : Word) (s : State) : (storeWord i w s).sel = s.sel := rfl
@[simp] theorem storeWord_busHeld (i : Fin 6) (w : Word) (s : State) :
    (storeWord i w s).busHeld = s.busHeld := rfl
@[simp] theorem storeWord_frameNo (i : Fin 6) (w : Word) (s : State) :
    (storeWord i w s).frameNo = s.frameNo := rfl
@[simp] theorem storeWord_inWord (i : Fin 6) (w : Word) (s : State) : (storeWord i w s).inWord = s.inWord := rfl
@[simp] theorem storeWord_stalled (i : Fin 6) (w : Word) (s : State) :
    (storeWord i w s).stalled = s.stalled := rfl
@[simp] theorem storeWord_running (i : Fin 6) (w : Word) (s : State) :
    (storeWord i w s).running = s.running := rfl
@[simp] theorem storeWord_grain (i : Fin 6) (w : Word) (s : State) :
    (storeWord i w s).grain = s.grain := rfl
@[simp] theorem storeWord_requests (i : Fin 6) (w : Word) (s : State) :
    (storeWord i w s).requests = s.requests := rfl
@[simp] theorem storeWord_response (i : Fin 6) (w : Word) (s : State) :
    (storeWord i w s).response = s.response := rfl
@[simp] theorem storeWord_reading (i : Fin 6) (w : Word) (s : State) :
    (storeWord i w s).reading = some (readingOf i s.pend w) := rfl
@[simp] theorem storeWord_answers (i : Fin 6) (w : Word) (s : State) :
    (storeWord i w s).answers = s.answers := rfl
@[simp] theorem storeWord_device (i : Fin 6) (w : Word) (s : State) : (storeWord i w s).device = s.device := rfl
@[simp] theorem storeWord_calls (i : Fin 6) (w : Word) (s : State) : (storeWord i w s).calls = s.calls := rfl
@[simp] theorem storeWord_draws (i : Fin 6) (w : Word) (s : State) : (storeWord i w s).draws = s.draws := rfl
@[simp] theorem storeWord_trace (i : Fin 6) (w : Word) (s : State) : (storeWord i w s).trace = s.trace := rfl

/-! ## `deliver` -/

@[simp] theorem deliver_tx (c : Cause) (r : Result) (s : State) : (deliver c r s).tx = s.tx := rfl
@[simp] theorem deliver_rx (c : Cause) (r : Result) (s : State) : (deliver c r s).rx = s.rx := rfl
@[simp] theorem deliver_seq (c : Cause) (r : Result) (s : State) : (deliver c r s).seq = s.seq := rfl
@[simp] theorem deliver_sclkHz (c : Cause) (r : Result) (s : State) : (deliver c r s).sclkHz = s.sclkHz := rfl
@[simp] theorem deliver_clkinHz (c : Cause) (r : Result) (s : State) :
    (deliver c r s).clkinHz = s.clkinHz := rfl
@[simp] theorem deliver_pend (c : Cause) (r : Result) (s : State) : (deliver c r s).pend = s.pend := rfl
@[simp] theorem deliver_sel (c : Cause) (r : Result) (s : State) : (deliver c r s).sel = s.sel := rfl
@[simp] theorem deliver_busHeld (c : Cause) (r : Result) (s : State) :
    (deliver c r s).busHeld = s.busHeld := rfl
@[simp] theorem deliver_frameNo (c : Cause) (r : Result) (s : State) : (deliver c r s).frameNo = 0 := rfl
@[simp] theorem deliver_inWord (c : Cause) (r : Result) (s : State) : (deliver c r s).inWord = s.inWord := rfl
@[simp] theorem deliver_stalled (c : Cause) (r : Result) (s : State) :
    (deliver c r s).stalled = s.stalled := rfl
@[simp] theorem deliver_running (c : Cause) (r : Result) (s : State) :
    (deliver c r s).running = s.running := rfl
@[simp] theorem deliver_grain (c : Cause) (r : Result) (s : State) :
    (deliver c r s).grain = s.grain := rfl
@[simp] theorem deliver_requests (c : Cause) (r : Result) (s : State) :
    (deliver c r s).requests = s.requests := rfl
@[simp] theorem deliver_response (c : Cause) (r : Result) (s : State) :
    (deliver c r s).response = some ⟨c, none, r⟩ := rfl
@[simp] theorem deliver_reading (c : Cause) (r : Result) (s : State) :
    (deliver c r s).reading = s.reading := rfl
@[simp] theorem deliver_answers (c : Cause) (r : Result) (s : State) :
    (deliver c r s).answers = s.answers := rfl
@[simp] theorem deliver_device (c : Cause) (r : Result) (s : State) : (deliver c r s).device = s.device := rfl
@[simp] theorem deliver_calls (c : Cause) (r : Result) (s : State) : (deliver c r s).calls = s.calls := rfl
@[simp] theorem deliver_draws (c : Cause) (r : Result) (s : State) : (deliver c r s).draws = s.draws := rfl
@[simp] theorem deliver_trace (c : Cause) (r : Result) (s : State) : (deliver c r s).trace = s.trace := rfl

/-! ## `beginOp` -/

@[simp] theorem beginOp_tx (s : State) : (beginOp s).tx = s.tx := rfl
@[simp] theorem beginOp_rx (s : State) : (beginOp s).rx = s.rx := rfl
@[simp] theorem beginOp_seq (s : State) : (beginOp s).seq = s.seq := rfl
@[simp] theorem beginOp_sclkHz (s : State) : (beginOp s).sclkHz = s.sclkHz := rfl
@[simp] theorem beginOp_clkinHz (s : State) : (beginOp s).clkinHz = s.clkinHz := rfl
@[simp] theorem beginOp_pend (s : State) : (beginOp s).pend = s.pend := rfl
@[simp] theorem beginOp_sel (s : State) : (beginOp s).sel = s.sel := rfl
@[simp] theorem beginOp_busHeld (s : State) : (beginOp s).busHeld = s.busHeld := rfl
@[simp] theorem beginOp_frameNo (s : State) : (beginOp s).frameNo = 0 := rfl
@[simp] theorem beginOp_inWord (s : State) : (beginOp s).inWord = s.inWord := rfl
@[simp] theorem beginOp_stalled (s : State) : (beginOp s).stalled = s.stalled := rfl
@[simp] theorem beginOp_running (s : State) : (beginOp s).running = s.running := rfl
@[simp] theorem beginOp_grain (s : State) : (beginOp s).grain = s.grain := rfl
@[simp] theorem beginOp_requests (s : State) : (beginOp s).requests = s.requests := rfl
@[simp] theorem beginOp_response (s : State) : (beginOp s).response = none := rfl
@[simp] theorem beginOp_reading (s : State) : (beginOp s).reading = s.reading := rfl
@[simp] theorem beginOp_answers (s : State) : (beginOp s).answers = s.answers := rfl
@[simp] theorem beginOp_device (s : State) : (beginOp s).device = s.device := rfl
@[simp] theorem beginOp_calls (s : State) : (beginOp s).calls = s.calls := rfl
@[simp] theorem beginOp_draws (s : State) : (beginOp s).draws = s.draws := rfl
@[simp] theorem beginOp_trace (s : State) : (beginOp s).trace = s.trace := rfl

/-! ## `hang` -/

@[simp] theorem hang_tx (s : State) : (hang s).tx = s.tx := rfl
@[simp] theorem hang_rx (s : State) : (hang s).rx = s.rx := rfl
@[simp] theorem hang_seq (s : State) : (hang s).seq = s.seq := rfl
@[simp] theorem hang_sclkHz (s : State) : (hang s).sclkHz = s.sclkHz := rfl
@[simp] theorem hang_clkinHz (s : State) : (hang s).clkinHz = s.clkinHz := rfl
@[simp] theorem hang_pend (s : State) : (hang s).pend = s.pend := rfl
@[simp] theorem hang_sel (s : State) : (hang s).sel = s.sel := rfl
@[simp] theorem hang_busHeld (s : State) : (hang s).busHeld = s.busHeld := rfl
@[simp] theorem hang_frameNo (s : State) : (hang s).frameNo = s.frameNo := rfl
@[simp] theorem hang_inWord (s : State) : (hang s).inWord = s.inWord := rfl
@[simp] theorem hang_stalled (s : State) : (hang s).stalled = true := rfl
@[simp] theorem hang_running (s : State) : (hang s).running = s.running := rfl
@[simp] theorem hang_grain (s : State) : (hang s).grain = s.grain := rfl
@[simp] theorem hang_requests (s : State) : (hang s).requests = s.requests := rfl
@[simp] theorem hang_response (s : State) : (hang s).response = s.response := rfl
@[simp] theorem hang_reading (s : State) : (hang s).reading = s.reading := rfl
@[simp] theorem hang_answers (s : State) : (hang s).answers = s.answers := rfl
@[simp] theorem hang_device (s : State) : (hang s).device = s.device := rfl
@[simp] theorem hang_calls (s : State) : (hang s).calls = s.calls := rfl
@[simp] theorem hang_draws (s : State) : (hang s).draws = s.draws := rfl
@[simp] theorem hang_trace (s : State) : (hang s).trace = s.trace := rfl

/-! ## `afterFrame` -/

@[simp] theorem afterFrame_tx (tx rx : Frame) (rest : List Answer) (s : State) :
    (afterFrame tx rx rest s).tx = tx := rfl
@[simp] theorem afterFrame_rx (tx rx : Frame) (rest : List Answer) (s : State) :
    (afterFrame tx rx rest s).rx = rx := rfl
@[simp] theorem afterFrame_seq (tx rx : Frame) (rest : List Answer) (s : State) :
    (afterFrame tx rx rest s).seq = ⟨5, 2⟩ := rfl
@[simp] theorem afterFrame_sclkHz (tx rx : Frame) (rest : List Answer) (s : State) :
    (afterFrame tx rx rest s).sclkHz = s.sclkHz := rfl
@[simp] theorem afterFrame_clkinHz (tx rx : Frame) (rest : List Answer) (s : State) :
    (afterFrame tx rx rest s).clkinHz = s.clkinHz := rfl
@[simp] theorem afterFrame_pend (tx rx : Frame) (rest : List Answer) (s : State) :
    (afterFrame tx rx rest s).pend = kindOf tx[0] := rfl
@[simp] theorem afterFrame_sel (tx rx : Frame) (rest : List Answer) (s : State) :
    (afterFrame tx rx rest s).sel = false := rfl
@[simp] theorem afterFrame_busHeld (tx rx : Frame) (rest : List Answer) (s : State) :
    (afterFrame tx rx rest s).busHeld = false := rfl
@[simp] theorem afterFrame_frameNo (tx rx : Frame) (rest : List Answer) (s : State) :
    (afterFrame tx rx rest s).frameNo = s.frameNo + 1 := rfl
@[simp] theorem afterFrame_inWord (tx rx : Frame) (rest : List Answer) (s : State) :
    (afterFrame tx rx rest s).inWord = s.inWord := rfl
@[simp] theorem afterFrame_stalled (tx rx : Frame) (rest : List Answer) (s : State) :
    (afterFrame tx rx rest s).stalled = s.stalled := rfl
@[simp] theorem afterFrame_running (tx rx : Frame) (rest : List Answer) (s : State) :
    (afterFrame tx rx rest s).running = s.running := rfl
@[simp] theorem afterFrame_grain (tx rx : Frame) (rest : List Answer) (s : State) :
    (afterFrame tx rx rest s).grain = s.grain := rfl
@[simp] theorem afterFrame_requests (tx rx : Frame) (rest : List Answer) (s : State) :
    (afterFrame tx rx rest s).requests = s.requests := rfl
@[simp] theorem afterFrame_response (tx rx : Frame) (rest : List Answer) (s : State) :
    (afterFrame tx rx rest s).response = s.response := rfl
@[simp] theorem afterFrame_reading (tx rx : Frame) (rest : List Answer) (s : State) :
    (afterFrame tx rx rest s).reading = some .crc := rfl
@[simp] theorem afterFrame_answers (tx rx : Frame) (rest : List Answer) (s : State) :
    (afterFrame tx rx rest s).answers = rest := rfl
@[simp] theorem afterFrame_device (tx rx : Frame) (rest : List Answer) (s : State) :
    (afterFrame tx rx rest s).device = s.device.map (deviceAfter tx) := rfl
@[simp] theorem afterFrame_calls (tx rx : Frame) (rest : List Answer) (s : State) :
    (afterFrame tx rx rest s).calls = s.calls + 19 := rfl
@[simp] theorem afterFrame_draws (tx rx : Frame) (rest : List Answer) (s : State) :
    (afterFrame tx rx rest s).draws = s.draws := rfl
@[simp] theorem afterFrame_trace (tx rx : Frame) (rest : List Answer) (s : State) :
    (afterFrame tx rx rest s).trace = s.trace ++ frameEvents s.sclkHz tx rx := rfl

/-! ## `lostFrame` -/

@[simp] theorem lostFrame_tx (s : State) : (lostFrame s).tx = s.tx := rfl
@[simp] theorem lostFrame_rx (s : State) : (lostFrame s).rx = freeFrame s.draws := rfl
@[simp] theorem lostFrame_seq (s : State) : (lostFrame s).seq = s.seq := rfl
@[simp] theorem lostFrame_sclkHz (s : State) : (lostFrame s).sclkHz = s.sclkHz := rfl
@[simp] theorem lostFrame_clkinHz (s : State) : (lostFrame s).clkinHz = s.clkinHz := rfl
@[simp] theorem lostFrame_pend (s : State) : (lostFrame s).pend = ⟨.none, 0⟩ := rfl
@[simp] theorem lostFrame_sel (s : State) : (lostFrame s).sel = s.sel := rfl
@[simp] theorem lostFrame_busHeld (s : State) : (lostFrame s).busHeld = s.busHeld := rfl
@[simp] theorem lostFrame_frameNo (s : State) : (lostFrame s).frameNo = s.frameNo := rfl
@[simp] theorem lostFrame_inWord (s : State) : (lostFrame s).inWord = s.inWord := rfl
@[simp] theorem lostFrame_stalled (s : State) : (lostFrame s).stalled = s.stalled := rfl
@[simp] theorem lostFrame_running (s : State) : (lostFrame s).running = s.running := rfl
@[simp] theorem lostFrame_grain (s : State) : (lostFrame s).grain = s.grain := rfl
@[simp] theorem lostFrame_requests (s : State) : (lostFrame s).requests = s.requests := rfl
@[simp] theorem lostFrame_response (s : State) : (lostFrame s).response = s.response := rfl
@[simp] theorem lostFrame_reading (s : State) : (lostFrame s).reading = s.reading := rfl
@[simp] theorem lostFrame_answers (s : State) : (lostFrame s).answers = s.answers := rfl
@[simp] theorem lostFrame_device (s : State) : (lostFrame s).device = s.device := rfl
@[simp] theorem lostFrame_calls (s : State) : (lostFrame s).calls = s.calls := rfl
@[simp] theorem lostFrame_draws (s : State) : (lostFrame s).draws = s.draws + 6 := rfl
@[simp] theorem lostFrame_trace (s : State) : (lostFrame s).trace = s.trace := rfl

/-! ## `deliverFault` -/

@[simp] theorem deliverFault_tx (e : TErr) (mk : Nat → Result) (n : Nat) (s : State) :
    (deliverFault e mk n s).tx = s.tx := rfl
@[simp] theorem deliverFault_rx (e : TErr) (mk : Nat → Result) (n : Nat) (s : State) :
    (deliverFault e mk n s).rx = s.rx := rfl
@[simp] theorem deliverFault_seq (e : TErr) (mk : Nat → Result) (n : Nat) (s : State) :
    (deliverFault e mk n s).seq = s.seq := rfl
@[simp] theorem deliverFault_sclkHz (e : TErr) (mk : Nat → Result) (n : Nat) (s : State) :
    (deliverFault e mk n s).sclkHz = s.sclkHz := rfl
@[simp] theorem deliverFault_clkinHz (e : TErr) (mk : Nat → Result) (n : Nat) (s : State) :
    (deliverFault e mk n s).clkinHz = s.clkinHz := rfl
@[simp] theorem deliverFault_pend (e : TErr) (mk : Nat → Result) (n : Nat) (s : State) :
    (deliverFault e mk n s).pend = s.pend := rfl
@[simp] theorem deliverFault_sel (e : TErr) (mk : Nat → Result) (n : Nat) (s : State) :
    (deliverFault e mk n s).sel = s.sel := rfl
@[simp] theorem deliverFault_busHeld (e : TErr) (mk : Nat → Result) (n : Nat) (s : State) :
    (deliverFault e mk n s).busHeld = s.busHeld := rfl
@[simp] theorem deliverFault_frameNo (e : TErr) (mk : Nat → Result) (n : Nat) (s : State) :
    (deliverFault e mk n s).frameNo = 0 := rfl
@[simp] theorem deliverFault_inWord (e : TErr) (mk : Nat → Result) (n : Nat) (s : State) :
    (deliverFault e mk n s).inWord = s.inWord := rfl
@[simp] theorem deliverFault_stalled (e : TErr) (mk : Nat → Result) (n : Nat) (s : State) :
    (deliverFault e mk n s).stalled = s.stalled := rfl
@[simp] theorem deliverFault_running (e : TErr) (mk : Nat → Result) (n : Nat) (s : State) :
    (deliverFault e mk n s).running = s.running := rfl
@[simp] theorem deliverFault_grain (e : TErr) (mk : Nat → Result) (n : Nat) (s : State) :
    (deliverFault e mk n s).grain = s.grain := rfl
@[simp] theorem deliverFault_requests (e : TErr) (mk : Nat → Result) (n : Nat) (s : State) :
    (deliverFault e mk n s).requests = s.requests := rfl
@[simp] theorem deliverFault_response (e : TErr) (mk : Nat → Result) (n : Nat) (s : State) :
    (deliverFault e mk n s).response = some ⟨.transportFault, some e, mk s.draws⟩ := rfl
@[simp] theorem deliverFault_reading (e : TErr) (mk : Nat → Result) (n : Nat) (s : State) :
    (deliverFault e mk n s).reading = s.reading := rfl
@[simp] theorem deliverFault_answers (e : TErr) (mk : Nat → Result) (n : Nat) (s : State) :
    (deliverFault e mk n s).answers = s.answers := rfl
@[simp] theorem deliverFault_device (e : TErr) (mk : Nat → Result) (n : Nat) (s : State) :
    (deliverFault e mk n s).device = s.device := rfl
@[simp] theorem deliverFault_calls (e : TErr) (mk : Nat → Result) (n : Nat) (s : State) :
    (deliverFault e mk n s).calls = s.calls := rfl
@[simp] theorem deliverFault_draws (e : TErr) (mk : Nat → Result) (n : Nat) (s : State) :
    (deliverFault e mk n s).draws = s.draws + n := rfl
@[simp] theorem deliverFault_trace (e : TErr) (mk : Nat → Result) (n : Nat) (s : State) :
    (deliverFault e mk n s).trace = s.trace := rfl

/-! ## `goOn` -/

@[simp] theorem goOn_tx (r : Running) (s : State) : (goOn r s).tx = s.tx := rfl
@[simp] theorem goOn_rx (r : Running) (s : State) : (goOn r s).rx = s.rx := rfl
@[simp] theorem goOn_seq (r : Running) (s : State) : (goOn r s).seq = s.seq := rfl
@[simp] theorem goOn_sclkHz (r : Running) (s : State) : (goOn r s).sclkHz = s.sclkHz := rfl
@[simp] theorem goOn_clkinHz (r : Running) (s : State) : (goOn r s).clkinHz = s.clkinHz := rfl
@[simp] theorem goOn_pend (r : Running) (s : State) : (goOn r s).pend = s.pend := rfl
@[simp] theorem goOn_sel (r : Running) (s : State) : (goOn r s).sel = s.sel := rfl
@[simp] theorem goOn_busHeld (r : Running) (s : State) : (goOn r s).busHeld = s.busHeld := rfl
@[simp] theorem goOn_frameNo (r : Running) (s : State) : (goOn r s).frameNo = s.frameNo := rfl
@[simp] theorem goOn_inWord (r : Running) (s : State) : (goOn r s).inWord = s.inWord := rfl
@[simp] theorem goOn_stalled (r : Running) (s : State) : (goOn r s).stalled = s.stalled := rfl
@[simp] theorem goOn_running (r : Running) (s : State) :
    (goOn r s).running = if r.todo = [] then none else some r := rfl
@[simp] theorem goOn_grain (r : Running) (s : State) : (goOn r s).grain = s.grain := rfl
@[simp] theorem goOn_requests (r : Running) (s : State) : (goOn r s).requests = s.requests := rfl
@[simp] theorem goOn_response (r : Running) (s : State) : (goOn r s).response = s.response := rfl
@[simp] theorem goOn_reading (r : Running) (s : State) : (goOn r s).reading = s.reading := rfl
@[simp] theorem goOn_answers (r : Running) (s : State) : (goOn r s).answers = s.answers := rfl
@[simp] theorem goOn_device (r : Running) (s : State) : (goOn r s).device = s.device := rfl
@[simp] theorem goOn_calls (r : Running) (s : State) : (goOn r s).calls = s.calls := rfl
@[simp] theorem goOn_draws (r : Running) (s : State) : (goOn r s).draws = s.draws := rfl
@[simp] theorem goOn_trace (r : Running) (s : State) : (goOn r s).trace = s.trace := rfl

/-! ## `start` -/

@[simp] theorem start_tx (op : Instr) (todo : List Action) (s : State) : (start op todo s).tx = s.tx := rfl
@[simp] theorem start_rx (op : Instr) (todo : List Action) (s : State) : (start op todo s).rx = s.rx := rfl
@[simp] theorem start_seq (op : Instr) (todo : List Action) (s : State) : (start op todo s).seq = s.seq := rfl
@[simp] theorem start_sclkHz (op : Instr) (todo : List Action) (s : State) :
    (start op todo s).sclkHz = s.sclkHz := rfl
@[simp] theorem start_clkinHz (op : Instr) (todo : List Action) (s : State) :
    (start op todo s).clkinHz = s.clkinHz := rfl
@[simp] theorem start_pend (op : Instr) (todo : List Action) (s : State) : (start op todo s).pend = s.pend := rfl
@[simp] theorem start_sel (op : Instr) (todo : List Action) (s : State) : (start op todo s).sel = s.sel := rfl
@[simp] theorem start_busHeld (op : Instr) (todo : List Action) (s : State) :
    (start op todo s).busHeld = s.busHeld := rfl
@[simp] theorem start_frameNo (op : Instr) (todo : List Action) (s : State) :
    (start op todo s).frameNo = s.frameNo := rfl
@[simp] theorem start_inWord (op : Instr) (todo : List Action) (s : State) :
    (start op todo s).inWord = s.inWord := rfl
@[simp] theorem start_stalled (op : Instr) (todo : List Action) (s : State) :
    (start op todo s).stalled = s.stalled := rfl
@[simp] theorem start_running (op : Instr) (todo : List Action) (s : State) :
    (start op todo s).running = some ⟨op, todo, nullWord, correlate ⟨.none, 0⟩ nullWord⟩ := rfl
@[simp] theorem start_grain (op : Instr) (todo : List Action) (s : State) : (start op todo s).grain = s.grain := rfl
@[simp] theorem start_requests (op : Instr) (todo : List Action) (s : State) :
    (start op todo s).requests = s.requests := rfl
@[simp] theorem start_response (op : Instr) (todo : List Action) (s : State) :
    (start op todo s).response = s.response := rfl
@[simp] theorem start_reading (op : Instr) (todo : List Action) (s : State) :
    (start op todo s).reading = s.reading := rfl
@[simp] theorem start_answers (op : Instr) (todo : List Action) (s : State) :
    (start op todo s).answers = s.answers := rfl
@[simp] theorem start_device (op : Instr) (todo : List Action) (s : State) :
    (start op todo s).device = s.device := rfl
@[simp] theorem start_calls (op : Instr) (todo : List Action) (s : State) : (start op todo s).calls = s.calls := rfl
@[simp] theorem start_draws (op : Instr) (todo : List Action) (s : State) : (start op todo s).draws = s.draws := rfl
@[simp] theorem start_trace (op : Instr) (todo : List Action) (s : State) : (start op todo s).trace = s.trace := rfl

/-! ## `attach` and the initial device -/

section Attach
variable (s : State) (reg : Vector RegVal 32) (now : DeviceInputs) (later : List DeviceInputs)

@[simp] theorem attach_tx : (s.attach reg now later).tx = s.tx := rfl
@[simp] theorem attach_rx : (s.attach reg now later).rx = s.rx := rfl
@[simp] theorem attach_seq : (s.attach reg now later).seq = s.seq := rfl
@[simp] theorem attach_sclkHz : (s.attach reg now later).sclkHz = s.sclkHz := rfl
@[simp] theorem attach_clkinHz : (s.attach reg now later).clkinHz = s.clkinHz := rfl
@[simp] theorem attach_pend : (s.attach reg now later).pend = s.pend := rfl
@[simp] theorem attach_sel : (s.attach reg now later).sel = s.sel := rfl
@[simp] theorem attach_busHeld : (s.attach reg now later).busHeld = s.busHeld := rfl
@[simp] theorem attach_frameNo : (s.attach reg now later).frameNo = s.frameNo := rfl
@[simp] theorem attach_inWord : (s.attach reg now later).inWord = s.inWord := rfl
@[simp] theorem attach_stalled : (s.attach reg now later).stalled = s.stalled := rfl
@[simp] theorem attach_running : (s.attach reg now later).running = s.running := rfl
@[simp] theorem attach_grain : (s.attach reg now later).grain = s.grain := rfl
@[simp] theorem attach_requests : (s.attach reg now later).requests = s.requests := rfl
@[simp] theorem attach_response : (s.attach reg now later).response = s.response := rfl
@[simp] theorem attach_reading : (s.attach reg now later).reading = s.reading := rfl
@[simp] theorem attach_answers : (s.attach reg now later).answers = s.answers := rfl
@[simp] theorem attach_device : (s.attach reg now later).device = some (Device.initial reg now later) := rfl
@[simp] theorem attach_calls : (s.attach reg now later).calls = s.calls := rfl
@[simp] theorem attach_draws : (s.attach reg now later).draws = s.draws := rfl
@[simp] theorem attach_trace : (s.attach reg now later).trace = s.trace := rfl

@[simp] theorem initial_reg : (Device.initial reg now later).reg = reg := rfl
@[simp] theorem initial_pend : (Device.initial reg now later).pend = ⟨.none, 0⟩ := rfl
@[simp] theorem initial_now : (Device.initial reg now later).now = now := rfl
@[simp] theorem initial_later : (Device.initial reg now later).later = later := rfl

end Attach

end Sys2Proof.Machine
end

