-- ==== Sys2Proof/Laws/Words.lean ====
section
/-! SUPPORT. Words as bytes and fields: the byte order laws (R37), the fields of the builders (R55 to R62), and reading a
device register after a write (R124). -/

namespace Sys2Proof

/-- Three bytes of a Word, joined again (R37). -/
@[simp] theorem bytesWord_wordByte (w : Word) : bytesWord (wordByte w 0) (wordByte w 1) (wordByte w 2) = w := by
  ext i hi
  by_cases h0 : i < 8
  · simp [bytesWord, wordByte, h0, show i < 16 by omega, BitVec.getLsbD_eq_getElem hi]
  · by_cases h1 : i < 16
    · simp [bytesWord, wordByte, h0, h1, show i - 8 < 8 by omega, show 8 + (i - 8) = i by omega,
        BitVec.getLsbD_eq_getElem hi]
    · simp [bytesWord, wordByte, h0, h1, show i - 16 < 8 by omega, show ¬ i - 8 < 8 by omega,
        show 16 + (i - 16) = i by omega, BitVec.getLsbD_eq_getElem hi]

/-- The three bytes that joined a Word (R37, R52). -/
theorem wordByte_bytesWord (a b c : Byte) :
    wordByte (bytesWord a b c) 0 = a ∧ wordByte (bytesWord a b c) 1 = b ∧ wordByte (bytesWord a b c) 2 = c := by
  refine ⟨?_, ?_, ?_⟩ <;> ext i hi
  · simp [wordByte, bytesWord, hi, show ¬ 16 + i < 8 by omega, show ¬ 16 + i < 16 by omega, show 16 + i < 24 by omega,
      BitVec.getLsbD_of_ge b (16 + i - 8) (by omega), BitVec.getLsbD_of_ge c (16 + i) (by omega)]
  · simp [wordByte, bytesWord, hi, show ¬ 8 + i < 8 by omega, show 8 + i < 16 by omega, show 8 + i < 24 by omega]
  · simp [wordByte, bytesWord, hi, show i < 16 by omega, show i < 24 by omega]

@[simp] theorem wordByte_bytesWord_two (a b c : Byte) : wordByte (bytesWord a b c) 0 = a :=
  (wordByte_bytesWord a b c).1
@[simp] theorem wordByte_bytesWord_one (a b c : Byte) : wordByte (bytesWord a b c) 1 = b :=
  (wordByte_bytesWord a b c).2.1
@[simp] theorem wordByte_bytesWord_zero (a b c : Byte) : wordByte (bytesWord a b c) 2 = c :=
  (wordByte_bytesWord a b c).2.2

/-- The value and the third byte of a read response (R62). -/
@[simp] theorem valueField_rdataWord (v : RegVal) (low : Byte) : valueField (rdataWord v low) = v := by
  ext i hi
  simp [valueField, rdataWord, valueShift, show 8 + i < 24 by omega, BitVec.getLsbD_eq_getElem hi]

@[simp] theorem padField_rdataWord (v : RegVal) (low : Byte) : padField (rdataWord v low) = low := by
  ext i hi
  simp [padField, rdataWord, valueShift, hi, show i < 24 by omega]

/-- A Word is its value field and its third byte (R39, R62). -/
@[simp] theorem rdataWord_fields (w : Word) : rdataWord (valueField w) (padField w) = w := by
  ext i hi
  by_cases h : i < 8
  · simp [valueField, padField, rdataWord, valueShift, h, BitVec.getLsbD_eq_getElem hi]
  · simp [valueField, padField, rdataWord, valueShift, h, show i - 8 < 16 by omega, show 8 + (i - 8) = i by omega,
      BitVec.getLsbD_eq_getElem hi]

/-- The write payload is a read response with a zero third byte (R59, R62). -/
theorem wdataWord_eq (v : RegVal) : wdataWord v = rdataWord v 0 := by
  simp [wdataWord, rdataWord]

@[simp] theorem valueField_wdataWord (v : RegVal) : valueField (wdataWord v) = v := by simp [wdataWord_eq]

@[simp] theorem padField_wdataWord (v : RegVal) : padField (wdataWord v) = 0 := by simp [wdataWord_eq]

/-- The command of a built Command Word (R93): `KIND_OF(MKCMD(k, a)) = {k, a}`. -/
@[simp] theorem kindOf_mkCmd_rreg (a : Addr) : kindOf (mkCmd .rreg a) = ⟨.rreg, a⟩ := by
  revert a; decide

@[simp] theorem kindOf_mkCmd_wreg (a : Addr) : kindOf (mkCmd .wreg a) = ⟨.wreg, a⟩ := by
  revert a; decide

@[simp] theorem kindOf_nullWord : kindOf nullWord = ⟨.none, 0⟩ := by decide

@[simp] theorem addrField_mkAck (a : Addr) : addrField (mkAck a) = a := by revert a; decide

@[simp] theorem addrField_mkCmd (k : CmdKind) (a : Addr) : addrField (mkCmd k a) = a := by
  cases k <;> (revert a; decide)

@[simp] theorem hasPrefix_mkAck (a : Addr) : hasPrefix (mkAck a) prefixWack = true := by revert a; decide

/-- The address field is bits 19:15 (R55): `ADDR_MASK` keeps five bits. -/
theorem addrField_eq (w : Word) : addrField w = w.extractLsb' 15 5 := by
  have hm : ∀ i < 24, addrMask.getLsbD i = decide (i < 5) := by decide
  ext i hi
  simp [addrField, addrShift, hm i (by omega), hi, show i < 24 by omega]

/-- A gain fills its field: `GAIN_MASK` drops no bit of it (R67, R105). -/
theorem gainField_eq (i : Nat) (g : Gain) : gainField i g = g.setWidth 16 <<< gainShift i := by
  have h : g.setWidth 16 &&& gainMask = g.setWidth 16 := by revert g; decide
  rw [gainField, h]

/-- The chop masks drop no bit of their fields, whatever the operands (R67, R107). -/
theorem chopFields_eq (en : Bool) (d : BitVec 5) :
    chopDlyField d = (d - 1).setWidth 16 <<< chopDlyShift ∧
    chopEnField en = (BitVec.ofBool en).setWidth 16 <<< chopEnShift := by
  revert en d; decide

/-- The formula of R105: the masks of the fields drop out. -/
theorem packGain_eq (g0 g1 g2 g3 : Gain) :
    packGain g0 g1 g2 g3 =
      g3.setWidth 16 <<< 12 ||| g2.setWidth 16 <<< 8 ||| g1.setWidth 16 <<< 4 ||| g0.setWidth 16 := by
  simp [packGain, gainField_eq, gainShift]

/-- The formula of R107: the masks of the fields drop out. -/
theorem packChop_eq (old : RegVal) (en : Bool) (d : BitVec 5) :
    packChop old en d =
      (old &&& 0x0EFF) ||| (d - 1).setWidth 16 <<< 12 ||| (BitVec.ofBool en).setWidth 16 <<< 8 := by
  rw [packChop, (chopFields_eq en d).1, (chopFields_eq en d).2]
  rfl

/-- The three fields of the configuration register partition its bits (R27, R67). -/
theorem cfgMasks_partition : cfgKeepMask = ~~~(chopDlyMask ||| chopEnMask) ∧ chopDlyMask &&& chopEnMask = 0 := by decide

/-- A Word of the form F-CMD is built from its prefix and its address field (R55, R70). -/
theorem eq_cmdWord_of_hasPrefix (w : Word) (p : BitVec 4) (h : hasPrefix w p = true) :
    w = cmdWord p (addrField w) := by
  have h' : w &&& cmdMask = cmdWord p 0 := by simpa [hasPrefix] using h
  have hm : ∀ i < 24, cmdMask.getLsbD i = decide (i < 15 ∨ 20 ≤ i) := by decide
  ext i hi
  have key : (w &&& cmdMask).getLsbD i = (cmdWord p 0).getLsbD i := by rw [h']
  rw [BitVec.getLsbD_and, hm i hi] at key
  rw [← BitVec.getLsbD_eq_getElem, ← BitVec.getLsbD_eq_getElem]
  simp only [cmdWord, addrField_eq, prefixShift, addrShift, BitVec.getLsbD_or, BitVec.getLsbD_shiftLeft,
    BitVec.getLsbD_setWidth, BitVec.getLsbD_extractLsb'] at key ⊢
  by_cases h1 : i < 15
  · simpa [h1, show i < 20 by omega] using key
  · by_cases h2 : i < 20
    · simp [h1, h2, hi, show i - 15 < 5 by omega, show 15 + (i - 15) = i by omega, show i - 15 < 24 by omega]
    · simpa [h1, h2, hi, show 20 ≤ i by omega, show ¬ i - 15 < 5 by omega] using key

/-- `KIND_OF` names a command only for the Word `MKCMD` builds (R70, R93). -/
theorem eq_of_kindOf (w : Word) :
    ((kindOf w).kind = .none → w = nullWord) ∧ ((kindOf w).kind = .rreg → w = mkCmd .rreg (addrField w)) ∧
    ((kindOf w).kind = .wreg → w = mkCmd .wreg (addrField w)) := by
  unfold kindOf
  split
  · next h => simp [h]
  · split
    · next h => exact ⟨by simp, fun _ => eq_cmdWord_of_hasPrefix w _ h, by simp⟩
    · split
      · next h => exact ⟨by simp, by simp, fun _ => eq_cmdWord_of_hasPrefix w _ h⟩
      · simp

/-- `KIND_OF` gives address 0 to a Word that is no register command (R93). -/
theorem kindOf_addr (w : Word) (h : (kindOf w).kind = .none ∨ (kindOf w).kind = .other) : (kindOf w).addr = 0 := by
  revert h
  unfold kindOf
  split
  · simp
  · split
    · simp
    · split <;> simp

end Sys2Proof

namespace Sys2Proof.Machine

/-- A device register reads as it was written (R124). -/
@[simp] theorem memRead_memWrite_same (d : Device) (a : Addr) (v : RegVal) : memRead (memWrite d a v) a = v := by
  simp [memRead, memWrite]

/-- A write leaves every other device register alone (R124). -/
theorem memRead_memWrite_other (d : Device) (a b : Addr) (v : RegVal) (h : b ≠ a) :
    memRead (memWrite d a v) b = memRead d b := by
  have hn : a.toNat ≠ b.toNat := fun e => h (BitVec.eq_of_toNat_eq e.symm)
  simp [memRead, memWrite, hn]

/-- The registers of the reference device after a frame (R125): the one a write command names, and no other. -/
theorem memRead_deviceAfter (t : Frame) (d : Device) (a : Addr) :
    memRead (deviceAfter t d) a =
      if (kindOf t[0]).kind = .wreg ∧ a = (kindOf t[0]).addr then valueField t[1] else memRead d a := by
  have hn : ∀ d' : Device, memRead (nextInputs d') a = memRead d' a := by
    intro d'; unfold nextInputs; split <;> rfl
  unfold deviceAfter
  rw [hn]
  show memRead (deviceWrite t d) a = _
  unfold deviceWrite
  by_cases h : (kindOf t[0]).kind = .wreg
  · by_cases h2 : a = (kindOf t[0]).addr
    · simp [h, h2]
    · simp [h, h2, memRead_memWrite_other]
  · simp [h]

end Sys2Proof.Machine
end

