-- ==== Sys2Proof/Laws/Ops.lean ====
section
/-! SUPPORT. What each shared operation can do, said once: the ways a primitive, a Word and a frame end, and the frame
whose answers are known. -/

namespace Sys2Proof.Machine

/-! ## Composing functions that may fault or stall -/

@[simp] theorem bind_done {α β : Type} (a : α) (s : State) (f : α → State → Reply β) :
    (Reply.done a s).bind f = f a s := rfl

@[simp] theorem bind_fault {α β : Type} (e : TErr) (s : State) (f : α → State → Reply β) :
    (Reply.fault e s).bind f = .fault e s := rfl

@[simp] theorem bind_stall {α β : Type} (s : State) (f : α → State → Reply β) :
    (Reply.stall s).bind f = .stall s := rfl

@[simp] theorem finish_done {α : Type} (a : α) (s : State) (mk : Nat → Result) (n : Nat) (k : α → State → State) :
    finish (.done a s) mk n k = k a s := rfl

@[simp] theorem finish_fault {α : Type} (e : TErr) (s : State) (mk : Nat → Result) (n : Nat) (k : α → State → State) :
    finish (.fault e s) mk n k = raiseTransportFault e mk n s := rfl

@[simp] theorem finish_stall {α : Type} (s : State) (mk : Nat → Result) (n : Nat) (k : α → State → State) :
    finish (.stall s) mk n k = hang s := rfl

/-- What holds of a reply: `D` where it ends with a value, `F` where a primitive failed, `S` where one stalled. -/
def Reply.Ends {α : Type} (r : Reply α) (D : α → State → Prop) (F : TErr → State → Prop) (S : State → Prop) : Prop :=
  match r with
  | .done a s => D a s
  | .fault e s => F e s
  | .stall s => S s

/-- The rule of composition: the second function is judged from what the first one guarantees. -/
theorem ends_bind {α β : Type} {r : Reply α} {f : α → State → Reply β} {D : α → State → Prop}
    {D' : β → State → Prop} {F : TErr → State → Prop} {S : State → Prop}
    (h : r.Ends D F S) (hf : ∀ a s, D a s → (f a s).Ends D' F S) : (r.bind f).Ends D' F S := by
  cases r with
  | done a s => exact hf a s h
  | fault e s => exact h
  | stall s => exact h

/-- The rule of the end of an operation: each of its three ends. -/
theorem finish_ind {α : Type} {r : Reply α} {D : α → State → Prop} {F : TErr → State → Prop} {S : State → Prop}
    {mk : Nat → Result} {n : Nat} {k : α → State → State} {P : State → Prop} (h : r.Ends D F S)
    (hd : ∀ a s, D a s → P (k a s)) (hf : ∀ e s, F e s → P (raiseTransportFault e mk n s))
    (hs : ∀ s, S s → P (hang s)) : P (finish r mk n k) := by
  cases r with
  | done a s => exact hd a s h
  | fault e s => exact hf e s h
  | stall s => exact hs s h

/-! ## The primitives -/

/-- Everything a `BusConfigure` can do (R10, R77). -/
theorem busConfigure_cases (s : State) :
    busConfigure s = .done () { s.called.event (.busConfigure s.sclkHz .msbFirst Config.busMode .ok) with busHeld := true }
    ∨ (∃ e, busConfigure s = .fault e (s.called.event (.busConfigure s.sclkHz .msbFirst Config.busMode (.fault e))))
    ∨ busConfigure s = .stall (s.called.event (.busConfigure s.sclkHz .msbFirst Config.busMode .stall)) := by
  unfold busConfigure
  split
  · exact .inr (.inl ⟨_, rfl⟩)
  · exact .inr (.inr rfl)
  · exact .inl rfl
  · exact .inl rfl

/-- Everything an `XferByte` can do (R10, R17). -/
theorem xferByte_cases (o : Byte) (s : State) :
    (∃ b, xferByte o s = .done b { s.called.event (.xferByte o (.byte b)) with seq := s.seq.next })
    ∨ (∃ e, xferByte o s = .fault e (s.called.event (.xferByte o (.fault e))))
    ∨ xferByte o s = .stall (s.called.event (.xferByte o .stall)) := by
  unfold xferByte
  split
  · exact .inr (.inl ⟨_, rfl⟩)
  · exact .inr (.inr rfl)
  · exact .inl ⟨_, rfl⟩
  · exact .inl ⟨_, rfl⟩

/-! ## A Word and a frame whose answers are listed -/

theorem xferByte_listed {o b : Byte} {s : State} {rest : List Answer} (h : s.answers = .byte b :: rest) :
    xferByte o s = .done b { s with answers := rest, calls := s.calls + 1, seq := s.seq.next,
                                    trace := s.trace ++ [.xferByte o (.byte b)] } := by
  simp [xferByte, nextAnswer, h, byteArrived, State.called, State.event]

theorem xferWord_listed {t r : Word} {s : State} {rest : List Answer} (h : s.answers = wordAnswers r ++ rest) :
    xferWord t s = .done r { s with answers := rest, calls := s.calls + 3, seq := s.seq.next.next.next,
                                    trace := s.trace ++ wordEvents t r } := by
  unfold xferWord
  rw [xferByte_listed (show s.answers = .byte (wordByte r 0) :: _ from h), bind_done,
    xferByte_listed rfl, bind_done, xferByte_listed rfl, bind_done, bytesWord_wordByte]
  simp [wordEvents]

/-- The three bytes of a Word move the sequencer to the next Word, and to (5, 2) at the last (R17). -/
theorem seq_after_word (i : Fin 6) :
    (Seq.next (Seq.next (Seq.next ⟨i, 0⟩))) = Seq.next ⟨i, 2⟩ := by
  revert i; decide

/-- Six stores make the frame received (R76). -/
theorem stored_frame (rx r : Frame) :
    (((((rx.set 0 r[0]).set 1 r[1]).set 2 r[2]).set 3 r[3]).set 4 r[4]).set 5 r[5] = r := by
  apply Vector.ext
  intro i hi
  rcases i with _ | _ | _ | _ | _ | _ | i
  all_goals first | (exfalso; omega) | simp

theorem openFrame_listed {s : State} {rest : List Answer} (h : s.answers = .ok :: rest) :
    openFrame s = .done () { s with
      answers := rest, calls := s.calls + 1, frameNo := s.frameNo + 1, busHeld := true, sel := true, seq := ⟨0, 0⟩,
      trace := s.trace ++ [.busConfigure s.sclkHz .msbFirst Config.busMode .ok, .selAssert] } := by
  simp [openFrame, busConfigure, nextAnswer, h, selAssert, State.called, State.event]

/-- A frame whose 19 answers are listed completes (R76, R77, R95): it sends `tx`, receives `rx`, correlates Word 0 with
the command of the frame before, and `PEND` names the command just sent. -/
theorem frame_listed {tx rx : Frame} {s : State} {rest : List Answer} (h : s.answers = frameAnswers rx ++ rest) :
    frame tx s = .done (correlate s.pend rx[0]) (afterFrame tx rx rest s) := by
  unfold frame xchg6
  rw [openFrame_listed (rest := (wordIndices.flatMap fun i => wordAnswers rx[i]) ++ rest)
    (by simpa [frameAnswers] using h)]
  simp only [bind_done, wordIndices, xferWords, List.flatMap_cons, List.flatMap_nil, List.append_nil, List.append_assoc]
  rw [xferWord_listed rfl, bind_done, xferWord_listed rfl, bind_done, xferWord_listed rfl, bind_done,
    xferWord_listed rfl, bind_done, xferWord_listed rfl, bind_done, xferWord_listed rfl, bind_done]
  simp only [bind_done, storeWord, closeFrame, releaseScope, State.event, afterFrame, Fin.getElem_fin]
  congr 1
  · congr 1
    simp
  · have hs := stored_frame s.rx rx
    simp [frameEvents, openEvents, wordIndices, Seq.next, readingOf]
    exact hs

/-! ## A frame the reference device answers -/

theorem xferByte_device {o : Byte} {s : State} {d : Device} (ha : s.answers = []) (hd : s.device = some d) :
    xferByte o s = .done (wordByte (deviceWords d)[s.seq.w] s.seq.b)
      { s with calls := s.calls + 1, seq := s.seq.next,
               trace := s.trace ++ [.xferByte o (.byte (wordByte (deviceWords d)[s.seq.w] s.seq.b))] } := by
  cases s
  simp only at ha hd
  subst ha hd
  simp [xferByte, nextAnswer, byteArrived, farByte, State.called, State.event]

theorem xferWord_device {t : Word} {s : State} {d : Device} {i : Fin 6} (ha : s.answers = [])
    (hd : s.device = some d) (hq : s.seq = ⟨i, 0⟩) :
    xferWord t s = .done (deviceWords d)[i]
      { s with calls := s.calls + 3, seq := Seq.next ⟨i, 2⟩,
               trace := s.trace ++ wordEvents t (deviceWords d)[i] } := by
  cases s
  simp only at ha hd hq
  subst ha hd hq
  unfold xferWord
  rw [xferByte_device rfl rfl, bind_done, xferByte_device rfl rfl, bind_done, xferByte_device rfl rfl, bind_done]
  simp [Seq.next, wordEvents]
  rfl

/-- A frame answered by the attached reference device (R125): it completes, receives the device's six Words and the
device takes its step. -/
theorem frame_device {tx : Frame} {s : State} {d : Device} (ha : s.answers = []) (hd : s.device = some d) :
    frame tx s = .done (correlate s.pend (deviceWord0 d)) (afterFrame tx (deviceWords d) [] s) := by
  cases s
  rename_i tx' rx seq sclk clkin pend sel held no inw stalled running grain reqs resp reading answers device calls draws trace
  simp only at ha hd
  subst ha hd
  have hs := stored_frame rx (deviceWords d)
  unfold frame xchg6
  simp only [openFrame, busConfigure, nextAnswer, Option.isSome_some, if_true, bind_done, wordIndices, xferWords]
  rw [xferWord_device (i := 0) rfl rfl rfl, bind_done, xferWord_device (i := 1) rfl rfl rfl, bind_done,
    xferWord_device (i := 2) rfl rfl rfl, bind_done, xferWord_device (i := 3) rfl rfl rfl, bind_done,
    xferWord_device (i := 4) rfl rfl rfl, bind_done, xferWord_device (i := 5) rfl rfl rfl, bind_done]
  simp only [bind_done, storeWord, closeFrame, releaseScope, State.event, State.called, selAssert, afterFrame,
    Fin.getElem_fin]
  congr 1
  · simp [deviceWords]
  · simp [frameEvents, openEvents, wordIndices, readingOf, Seq.next]
    exact hs

end Sys2Proof.Machine
end

