-- ==== Sys2Proof/Laws/Frames.lean ====
section
/-! SUPPORT. A frame, said once: the three ways it can end (complete, the bus not claimed, cut at one of its 18 bytes), and
which way it ends when the answers of the environment are listed. -/

namespace Sys2Proof.Machine

/-! ## Primitives that do not complete -/

/-- A primitive that did not complete: it failed with a value, or never returned (R10). -/
abbrev Stop := Option TErr

/-- A reply that ends at such a primitive. -/
def Reply.stopped {α : Type} (o : Stop) (s : State) : Reply α :=
  match o with
  | some e => .fault e s
  | none => .stall s

/-- The answer that makes a call stop so. -/
def stopAnswer (o : Stop) : Answer :=
  match o with
  | some e => .fault e
  | none => .stall

/-- The outcome of a `BusConfigure` that stopped so. -/
def stopBus (o : Stop) : BusOutcome :=
  match o with
  | some e => .fault e
  | none => .stall

/-- The outcome of an `XferByte` that stopped so. -/
def stopByte (o : Stop) : ByteOutcome :=
  match o with
  | some e => .fault e
  | none => .stall

@[simp] theorem bind_stopped {α β : Type} (o : Stop) (s : State) (f : α → State → Reply β) :
    (Reply.stopped o s).bind f = .stopped o s := by
  cases o <;> rfl

/-- The state after `n` answered calls that made the events `es` and left the sequencer at `q`. -/
def State.played (n : Nat) (q : Seq) (es : List Event) (s : State) : State :=
  { s with answers := s.answers.drop n, calls := s.calls + n, seq := q, trace := s.trace ++ es }

@[simp] theorem played_played (m n : Nat) (q r : Seq) (es fs : List Event) (s : State) :
    State.played n r fs (State.played m q es s) = s.played (m + n) r (es ++ fs) := by
  simp [State.played, Nat.add_assoc]

@[simp] theorem played_seq (n : Nat) (q : Seq) (es : List Event) (s : State) : (s.played n q es).seq = q := rfl

/-- Everything an `XferByte` can do (R10, R17). -/
theorem xferByte_ends (o : Byte) (s : State) :
    (∃ b, xferByte o s = .done b (s.played 1 s.seq.next [.xferByte o (.byte b)])) ∨
    ∃ x, xferByte o s = .stopped x (s.played 1 s.seq [.xferByte o (stopByte x)]) := by
  have hd : s.answers.drop 1 = s.answers.tail := List.drop_one
  rcases xferByte_cases o s with ⟨b, h⟩ | ⟨e, h⟩ | h
  · exact .inl ⟨b, by rw [h, State.played, hd]; rfl⟩
  · exact .inr ⟨some e, by rw [h, State.played, hd]; rfl⟩
  · exact .inr ⟨none, by rw [h, State.played, hd]; rfl⟩

/-- Everything an `XFER_WORD` can do from the first byte of Word `i` (R75): it returns the Word received, or stops at
its byte `j`. -/
theorem xferWord_ends (t : Word) {i : Fin 6} {s : State} (hq : s.seq = ⟨i, 0⟩) :
    (∃ r, xferWord t s = .done r (s.played 3 (Seq.next ⟨i, 2⟩) (wordEvents t r))) ∨
    ∃ (r : Word) (j : Fin 3) (x : Stop), xferWord t s = .stopped x
      (s.played (j.val + 1) ⟨i, j⟩ ((wordEvents t r).take j.val ++ [.xferByte (wordByte t j) (stopByte x)])) := by
  unfold xferWord
  rcases xferByte_ends (wordByte t 0) s with ⟨a, h⟩ | ⟨x, h⟩ <;> rw [h]
  case inr => exact .inr ⟨0, 0, x, by simp [hq]⟩
  rw [bind_done, hq]
  rcases xferByte_ends (wordByte t 1) (s.played 1 (Seq.next ⟨i, 0⟩) [.xferByte (wordByte t 0) (.byte a)])
    with ⟨b, h⟩ | ⟨x, h⟩ <;> rw [h]
  case inr => exact .inr ⟨bytesWord a 0 0, 1, x, by simp [Seq.next, wordEvents]⟩
  rw [bind_done, played_played, played_seq]
  generalize hs : State.played .. = s2
  rcases xferByte_ends (wordByte t 2) s2 with ⟨c, h⟩ | ⟨x, h⟩ <;> rw [h] <;> subst hs
  case inr => exact .inr ⟨bytesWord a b 0, 2, x, by simp [Seq.next, wordEvents]⟩
  exact .inl ⟨bytesWord a b c, by simp [Seq.next, wordEvents]; rfl⟩


/-- The state `n` calls into a frame `tx` that began in `s`: `r` and `rd` are what `RX` and the decoder hold by then. -/
def State.inFrame (tx r : Frame) (rd : Option Reading) (n : Nat) (q : Seq) (es : List Event) (s : State) : State :=
  { s.played n q es with tx := tx, rx := r, reading := rd, frameNo := s.frameNo + 1, busHeld := true, sel := true }

@[simp] theorem played_inFrame (tx r : Frame) (rd : Option Reading) (m n : Nat) (p q : Seq) (es fs : List Event)
    (s : State) : (s.inFrame tx r rd m p es).played n q fs = s.inFrame tx r rd (m + n) q (es ++ fs) := by
  simp [State.inFrame, State.played, Nat.add_assoc]

@[simp] theorem storeWord_inFrame (i : Fin 6) (w : Word) (tx r : Frame) (rd : Option Reading) (n : Nat) (q : Seq)
    (es : List Event) (s : State) : storeWord i w (s.inFrame tx r rd n q es) =
      s.inFrame tx (r.set i w) (some (readingOf i s.pend w)) n q es := rfl

@[simp] theorem inFrame_tx (tx r : Frame) (rd : Option Reading) (n : Nat) (q : Seq) (es : List Event) (s : State) :
    (s.inFrame tx r rd n q es).tx = tx := rfl
@[simp] theorem inFrame_rx (tx r : Frame) (rd : Option Reading) (n : Nat) (q : Seq) (es : List Event) (s : State) :
    (s.inFrame tx r rd n q es).rx = r := rfl
@[simp] theorem inFrame_seq (tx r : Frame) (rd : Option Reading) (n : Nat) (q : Seq) (es : List Event) (s : State) :
    (s.inFrame tx r rd n q es).seq = q := rfl
@[simp] theorem inFrame_pend (tx r : Frame) (rd : Option Reading) (n : Nat) (q : Seq) (es : List Event) (s : State) :
    (s.inFrame tx r rd n q es).pend = s.pend := rfl

/-- Everything an opened frame can do (R77): the bus is not claimed, or select is asserted at (0, 0). -/
theorem openFrame_ends (s : State) :
    openFrame s = .done () (s.inFrame s.tx s.rx s.reading 1 ⟨0, 0⟩
        [.busConfigure s.sclkHz .msbFirst Config.busMode .ok, .selAssert]) ∨
    ∃ x, openFrame s = .stopped x
      { s.played 1 s.seq [.busConfigure s.sclkHz .msbFirst Config.busMode (stopBus x)] with
        frameNo := s.frameNo + 1 } := by
  have hd : s.answers.drop 1 = s.answers.tail := List.drop_one
  unfold openFrame
  rcases busConfigure_cases { s with frameNo := s.frameNo + 1 } with h | ⟨e, h⟩ | h <;> rw [h]
  · exact .inl (by simp [State.inFrame, State.played, State.called, State.event, selAssert, hd])
  · exact .inr ⟨some e, by simp [State.played, State.called, State.event, Reply.stopped, stopBus, hd]⟩
  · exact .inr ⟨none, by simp [State.played, State.called, State.event, Reply.stopped, stopBus, hd]⟩

/-- The next Word of a frame: it is stored and the frame goes on, or the frame stops at one of its bytes. -/
theorem xferWords_ends (i : Fin 6) (is : List (Fin 6)) (tx r : Frame) (rd : Option Reading) (n : Nat)
    (es : List Event) (s : State) :
    (∃ w, xferWords (i :: is) (s.inFrame tx r rd n ⟨i, 0⟩ es) =
      xferWords is (s.inFrame tx (r.set i w) (some (readingOf i s.pend w)) (n + 3) (Seq.next ⟨i, 2⟩)
        (es ++ wordEvents tx[i] w))) ∨
    ∃ (w : Word) (j : Fin 3) (x : Stop), xferWords (i :: is) (s.inFrame tx r rd n ⟨i, 0⟩ es) =
      .stopped x (s.inFrame tx r rd (n + (j.val + 1)) ⟨i, j⟩
        (es ++ ((wordEvents tx[i] w).take j.val ++ [.xferByte (wordByte tx[i] j) (stopByte x)]))) := by
  rw [xferWords]
  rcases xferWord_ends tx[i] (s := s.inFrame tx r rd n ⟨i, 0⟩ es) (i := i) rfl with ⟨w, h⟩ | ⟨w, j, x, h⟩
  · exact .inl ⟨w, by rw [inFrame_tx, h]; simp⟩
  · exact .inr ⟨w, j, x, by rw [inFrame_tx, h]; simp⟩

/-- The state at a frame's call that stopped at wire byte `k`, `r` and `rd` being what `RX` and the decoder hold. -/
def frameCut (tx rx r : Frame) (rd : Option Reading) (k : Fin 18) (x : Stop) (s : State) : State :=
  s.inFrame tx r rd (k.val + 2) (seqAt k) (cutEvents s.sclkHz tx rx k (stopByte x))

/-- The state at a frame that was not granted the bus. -/
def frameUnclaimed (tx : Frame) (x : Stop) (s : State) : State :=
  { s.played 1 s.seq [.busConfigure s.sclkHz .msbFirst Config.busMode (stopBus x)] with
    tx := tx, frameNo := s.frameNo + 1 }

/-- A state in a frame is the state cut at byte `k`, when its counts, position and events are those of the cut. -/
theorem stopped_inFrame {α : Type} {tx rx r : Frame} {rd : Option Reading} {k : Fin 18} {x : Stop} {s : State} {n : Nat}
    {q : Seq} {es : List Event} (hn : n = k.val + 2) (hq : q = seqAt k)
    (he : es = cutEvents s.sclkHz tx rx k (stopByte x)) :
    (Reply.stopped x (s.inFrame tx r rd n q es) : Reply α) = .stopped x (frameCut tx rx r rd k x s) := by
  subst hn hq he; rfl

/-- Everything the six Words of an opened frame can do (R75, R76, R79). -/
theorem frameWords_ends (tx r0 : Frame) (rd0 : Option Reading) (s : State) :
    (∃ rx, xferWords wordIndices
        (s.inFrame tx r0 rd0 1 ⟨0, 0⟩ [.busConfigure s.sclkHz .msbFirst Config.busMode .ok, .selAssert]) =
      .done () (s.inFrame tx rx (some .crc) 19 ⟨5, 2⟩ (openEvents s.sclkHz tx rx))) ∨
    ∃ rx r rd k x, xferWords wordIndices
        (s.inFrame tx r0 rd0 1 ⟨0, 0⟩ [.busConfigure s.sclkHz .msbFirst Config.busMode .ok, .selAssert]) =
      .stopped x (frameCut tx rx r rd k x s) := by
  unfold wordIndices
  rcases xferWords_ends 0 _ tx _ _ _ _ s with ⟨w0, h⟩ | ⟨w0, j, x, h⟩ <;> rw [h] <;> clear h
  case inr =>
    exact .inr ⟨#v[w0, 0, 0, 0, 0, 0], _, _, ⟨0 + j.val, by omega⟩, x,
      stopped_inFrame (by fin_cases j <;> rfl) (by fin_cases j <;> rfl) (by fin_cases j <;> rfl)⟩
  rw [show Seq.next ⟨0, 2⟩ = ⟨1, 0⟩ from rfl]
  rcases xferWords_ends 1 _ tx _ _ _ _ s with ⟨w1, h⟩ | ⟨w1, j, x, h⟩ <;> rw [h] <;> clear h
  case inr =>
    exact .inr ⟨#v[w0, w1, 0, 0, 0, 0], _, _, ⟨3 + j.val, by omega⟩, x,
      stopped_inFrame (by fin_cases j <;> rfl) (by fin_cases j <;> rfl) (by fin_cases j <;> rfl)⟩
  rw [show Seq.next ⟨1, 2⟩ = ⟨2, 0⟩ from rfl]
  rcases xferWords_ends 2 _ tx _ _ _ _ s with ⟨w2, h⟩ | ⟨w2, j, x, h⟩ <;> rw [h] <;> clear h
  case inr =>
    exact .inr ⟨#v[w0, w1, w2, 0, 0, 0], _, _, ⟨6 + j.val, by omega⟩, x,
      stopped_inFrame (by fin_cases j <;> rfl) (by fin_cases j <;> rfl) (by fin_cases j <;> rfl)⟩
  rw [show Seq.next ⟨2, 2⟩ = ⟨3, 0⟩ from rfl]
  rcases xferWords_ends 3 _ tx _ _ _ _ s with ⟨w3, h⟩ | ⟨w3, j, x, h⟩ <;> rw [h] <;> clear h
  case inr =>
    exact .inr ⟨#v[w0, w1, w2, w3, 0, 0], _, _, ⟨9 + j.val, by omega⟩, x,
      stopped_inFrame (by fin_cases j <;> rfl) (by fin_cases j <;> rfl) (by fin_cases j <;> rfl)⟩
  rw [show Seq.next ⟨3, 2⟩ = ⟨4, 0⟩ from rfl]
  rcases xferWords_ends 4 _ tx _ _ _ _ s with ⟨w4, h⟩ | ⟨w4, j, x, h⟩ <;> rw [h] <;> clear h
  case inr =>
    exact .inr ⟨#v[w0, w1, w2, w3, w4, 0], _, _, ⟨12 + j.val, by omega⟩, x,
      stopped_inFrame (by fin_cases j <;> rfl) (by fin_cases j <;> rfl) (by fin_cases j <;> rfl)⟩
  rw [show Seq.next ⟨4, 2⟩ = ⟨5, 0⟩ from rfl]
  rcases xferWords_ends 5 _ tx _ _ _ _ s with ⟨w5, h⟩ | ⟨w5, j, x, h⟩ <;> rw [h] <;> clear h
  case inr =>
    exact .inr ⟨#v[w0, w1, w2, w3, w4, w5], _, _, ⟨15 + j.val, by omega⟩, x,
      stopped_inFrame (by fin_cases j <;> rfl) (by fin_cases j <;> rfl) (by fin_cases j <;> rfl)⟩
  refine .inl ⟨#v[w0, w1, w2, w3, w4, w5], ?_⟩
  have hs := stored_frame r0 #v[w0, w1, w2, w3, w4, w5]
  rw [xferWords]
  refine congrArg (Reply.done ()) ?_
  rw [show readingOf 5 s.pend w5 = .crc from rfl]
  refine Eq.trans (congrArg (fun r => State.inFrame tx r _ _ _ _ s) hs) (congrArg (fun es => State.inFrame _ _ _ _ _ es s) ?_)
  simp [openEvents, wordIndices]

/-- Everything a frame can do (R76, R79, R80, R95): it completes with some six Words, the bus is not claimed, or it is
cut at one of its 18 bytes. -/
theorem frame_ends (tx : Frame) (s : State) :
    (∃ rx, frame tx s = .done (correlate s.pend rx[0]) (afterFrame tx rx (s.answers.drop 19) s)) ∨
    (∃ x, frame tx s = .stopped x (frameUnclaimed tx x s)) ∨
    ∃ rx r rd k x, frame tx s = .stopped x (frameCut tx rx r rd k x s) := by
  unfold frame xchg6
  rcases openFrame_ends { s with tx := tx } with h | ⟨x, h⟩ <;> rw [h] <;> clear h
  case inr => exact .inr (.inl ⟨x, by rw [bind_stopped, bind_stopped]; rfl⟩)
  rw [bind_done]
  rcases frameWords_ends tx s.rx s.reading s with ⟨rx, h⟩ | ⟨rx, r, rd, k, x, h⟩
  · refine .inl ⟨rx, ?_⟩
    refine Eq.trans (congrArg (fun r => Reply.bind (Reply.bind r _) _) h) ?_
    simp [closeFrame, releaseScope, State.event, State.inFrame, State.played, afterFrame, frameEvents]
  · refine .inr (.inr ⟨rx, r, rd, k, x, ?_⟩)
    refine Eq.trans (congrArg (fun r => Reply.bind (Reply.bind r _) _) h) ?_
    rw [bind_stopped, bind_stopped]

/-! ## Frames whose answers are listed -/

/-- A Word whose answers are listed up to the call that stops (R79). -/
theorem xferWord_cut {t w : Word} {i : Fin 6} {j : Fin 3} {x : Stop} {s : State} {rest : List Answer} (hq : s.seq = ⟨i, 0⟩)
    (h : s.answers = (wordAnswers w).take j.val ++ stopAnswer x :: rest) :
    xferWord t s = .stopped x
      (s.played (j.val + 1) ⟨i, j⟩ ((wordEvents t w).take j.val ++ [.xferByte (wordByte t j) (stopByte x)])) := by
  have stop : ∀ (o : Byte) (u : State) (r : List Answer), u.answers = stopAnswer x :: r →
      xferByte o u = .stopped x (u.played 1 u.seq [.xferByte o (stopByte x)]) := by
    intro o u r hu
    cases x <;> simp [xferByte, nextAnswer, hu, stopAnswer, Reply.stopped, stopByte, State.called, State.event, State.played]
  unfold xferWord
  fin_cases j
  · rw [stop _ _ rest (by simpa using h), bind_stopped, hq]; rfl
  · rw [xferByte_listed (show s.answers = .byte (wordByte w 0) :: _ from h), bind_done, stop _ _ rest rfl, bind_stopped]
    simp [State.played, hq, Seq.next, wordEvents, h, wordAnswers]
  · rw [xferByte_listed (show s.answers = .byte (wordByte w 0) :: _ from h), bind_done, xferByte_listed rfl, bind_done, stop _ _ rest rfl, bind_stopped]
    simp [State.played, hq, Seq.next, wordEvents, h, wordAnswers]

/-- A Word of a frame whose answers are listed up to the call that stops (R79). -/
theorem xferWords_cut {i : Fin 6} {is : List (Fin 6)} {tx r : Frame} {rd : Option Reading} {n : Nat}
    {es : List Event} {s : State} {w : Word} {j : Fin 3} {x : Stop} {rest : List Answer}
    (h : s.answers.drop n = (wordAnswers w).take j.val ++ stopAnswer x :: rest) :
    xferWords (i :: is) (s.inFrame tx r rd n ⟨i, 0⟩ es) =
      .stopped x (s.inFrame tx r rd (n + (j.val + 1)) ⟨i, j⟩
        (es ++ ((wordEvents tx[i] w).take j.val ++ [.xferByte (wordByte tx[i] j) (stopByte x)]))) := by
  rw [xferWords, inFrame_tx, xferWord_cut (i := i) (j := j) (w := w) (x := x) (rest := rest) rfl h]
  simp

/-- The next Word of a frame whose answers are listed: it is stored and the frame goes on (R75, R76). -/
theorem xferWords_listed {i : Fin 6} {is : List (Fin 6)} {tx r : Frame} {rd : Option Reading} {n : Nat}
    {es : List Event} {s : State} {w : Word} (h : (s.answers.drop n).take 3 = wordAnswers w) :
    xferWords (i :: is) (s.inFrame tx r rd n ⟨i, 0⟩ es) =
      xferWords is (s.inFrame tx (r.set i w) (some (readingOf i s.pend w)) (n + 3) (Seq.next ⟨i, 2⟩)
        (es ++ wordEvents tx[i] w)) := by
  have h' : s.answers.drop n = wordAnswers w ++ s.answers.drop (n + 3) := by
    rw [← h, ← List.drop_drop, List.take_append_drop]
  rw [xferWords, inFrame_tx, xferWord_listed (r := w) (rest := s.answers.drop (n + 3)) h', bind_done]
  congr 1
  simp [storeWord, State.inFrame, State.played, Nat.add_assoc, seq_after_word]

/-- A frame whose first answer refuses the bus (R77, R79). -/
theorem frame_unclaimed {tx : Frame} {x : Stop} {rest : List Answer} {s : State} (h : s.answers = stopAnswer x :: rest) :
    frame tx s = .stopped x (frameUnclaimed tx x s) := by
  unfold frame xchg6 openFrame busConfigure nextAnswer
  simp only [h]
  cases x <;> simp [stopAnswer, Reply.stopped, frameUnclaimed, State.played, State.called, State.event, stopBus, h]

/-- The answers of a cut frame: those of the whole Words before it, and those of the Word it is cut in. -/
theorem cutAnswers_split (rx : Frame) (i : Fin 6) (j : Fin 3) (a : Answer) (rest : List Answer) :
    cutAnswers rx ⟨3 * i + j, by omega⟩ a ++ rest =
      (.ok :: (wordIndices.take i).flatMap fun i => wordAnswers rx[i]) ++ ((wordAnswers rx[i]).take j.val ++ a :: rest) := by
  fin_cases i <;> fin_cases j <;> simp [cutAnswers, frameAnswers, wordIndices, wordAnswers]

/-- A frame whose first answer grants the bus (R77). -/
theorem openFrame_ok {s : State} {rest : List Answer} (h : s.answers = .ok :: rest) :
    openFrame s = .done () (s.inFrame s.tx s.rx s.reading 1 ⟨0, 0⟩
        [.busConfigure s.sclkHz .msbFirst Config.busMode .ok, .selAssert]) := by
  rw [openFrame_listed h]; simp [State.inFrame, State.played, h]

/-- The Words of a frame cut at byte `j` of Word `i`, the answers before being listed (R79). -/
theorem frameWords_cut {tx rx r0 : Frame} {rd0 : Option Reading} {i : Fin 6} {j : Fin 3} {x : Stop}
    {rest : List Answer} {s : State} (h : s.answers = cutAnswers rx ⟨3 * i + j, by omega⟩ (stopAnswer x) ++ rest) :
    ∃ r rd, xferWords wordIndices
        (s.inFrame tx r0 rd0 1 ⟨0, 0⟩ [.busConfigure s.sclkHz .msbFirst Config.busMode .ok, .selAssert]) =
      .stopped x (frameCut tx rx r rd ⟨3 * i + j, by omega⟩ x s) := by
  rw [cutAnswers_split] at h
  unfold wordIndices
  fin_cases i
  · rw [xferWords_cut (w := rx[0]) (j := j) (x := x) (rest := rest) (by simp [h, wordIndices, wordAnswers])]
    exact ⟨_, _, stopped_inFrame (by fin_cases j <;> rfl) (by fin_cases j <;> rfl)
      (by fin_cases j <;> simp [cutEvents, openEvents, wordIndices, wordEvents, frameByte])⟩
  · rw [xferWords_listed (w := rx[0]) (by simp [h, wordIndices, wordAnswers]), show Seq.next ⟨0, 2⟩ = ⟨1, 0⟩ from rfl]
    rw [xferWords_cut (w := rx[1]) (j := j) (x := x) (rest := rest) (by simp [h, wordIndices, wordAnswers])]
    exact ⟨_, _, stopped_inFrame (by fin_cases j <;> rfl) (by fin_cases j <;> rfl)
      (by fin_cases j <;> simp [cutEvents, openEvents, wordIndices, wordEvents, frameByte])⟩
  · rw [xferWords_listed (w := rx[0]) (by simp [h, wordIndices, wordAnswers]), show Seq.next ⟨0, 2⟩ = ⟨1, 0⟩ from rfl]
    rw [xferWords_listed (w := rx[1]) (by simp [h, wordIndices, wordAnswers]), show Seq.next ⟨1, 2⟩ = ⟨2, 0⟩ from rfl]
    rw [xferWords_cut (w := rx[2]) (j := j) (x := x) (rest := rest) (by simp [h, wordIndices, wordAnswers])]
    exact ⟨_, _, stopped_inFrame (by fin_cases j <;> rfl) (by fin_cases j <;> rfl)
      (by fin_cases j <;> simp [cutEvents, openEvents, wordIndices, wordEvents, frameByte])⟩
  · rw [xferWords_listed (w := rx[0]) (by simp [h, wordIndices, wordAnswers]), show Seq.next ⟨0, 2⟩ = ⟨1, 0⟩ from rfl]
    rw [xferWords_listed (w := rx[1]) (by simp [h, wordIndices, wordAnswers]), show Seq.next ⟨1, 2⟩ = ⟨2, 0⟩ from rfl]
    rw [xferWords_listed (w := rx[2]) (by simp [h, wordIndices, wordAnswers]), show Seq.next ⟨2, 2⟩ = ⟨3, 0⟩ from rfl]
    rw [xferWords_cut (w := rx[3]) (j := j) (x := x) (rest := rest) (by simp [h, wordIndices, wordAnswers])]
    exact ⟨_, _, stopped_inFrame (by fin_cases j <;> rfl) (by fin_cases j <;> rfl)
      (by fin_cases j <;> simp [cutEvents, openEvents, wordIndices, wordEvents, frameByte])⟩
  · rw [xferWords_listed (w := rx[0]) (by simp [h, wordIndices, wordAnswers]), show Seq.next ⟨0, 2⟩ = ⟨1, 0⟩ from rfl]
    rw [xferWords_listed (w := rx[1]) (by simp [h, wordIndices, wordAnswers]), show Seq.next ⟨1, 2⟩ = ⟨2, 0⟩ from rfl]
    rw [xferWords_listed (w := rx[2]) (by simp [h, wordIndices, wordAnswers]), show Seq.next ⟨2, 2⟩ = ⟨3, 0⟩ from rfl]
    rw [xferWords_listed (w := rx[3]) (by simp [h, wordIndices, wordAnswers]), show Seq.next ⟨3, 2⟩ = ⟨4, 0⟩ from rfl]
    rw [xferWords_cut (w := rx[4]) (j := j) (x := x) (rest := rest) (by simp [h, wordIndices, wordAnswers])]
    exact ⟨_, _, stopped_inFrame (by fin_cases j <;> rfl) (by fin_cases j <;> rfl)
      (by fin_cases j <;> simp [cutEvents, openEvents, wordIndices, wordEvents, frameByte])⟩
  · rw [xferWords_listed (w := rx[0]) (by simp [h, wordIndices, wordAnswers]), show Seq.next ⟨0, 2⟩ = ⟨1, 0⟩ from rfl]
    rw [xferWords_listed (w := rx[1]) (by simp [h, wordIndices, wordAnswers]), show Seq.next ⟨1, 2⟩ = ⟨2, 0⟩ from rfl]
    rw [xferWords_listed (w := rx[2]) (by simp [h, wordIndices, wordAnswers]), show Seq.next ⟨2, 2⟩ = ⟨3, 0⟩ from rfl]
    rw [xferWords_listed (w := rx[3]) (by simp [h, wordIndices, wordAnswers]), show Seq.next ⟨3, 2⟩ = ⟨4, 0⟩ from rfl]
    rw [xferWords_listed (w := rx[4]) (by simp [h, wordIndices, wordAnswers]), show Seq.next ⟨4, 2⟩ = ⟨5, 0⟩ from rfl]
    rw [xferWords_cut (w := rx[5]) (j := j) (x := x) (rest := rest) (by simp [h, wordIndices, wordAnswers])]
    exact ⟨_, _, stopped_inFrame (by fin_cases j <;> rfl) (by fin_cases j <;> rfl)
      (by fin_cases j <;> simp [cutEvents, openEvents, wordIndices, wordEvents, frameByte])⟩

/-- A frame whose answers are listed up to the byte that stops it (R79, R80): it is cut there. -/
theorem frame_cut {tx rx : Frame} {k : Fin 18} {x : Stop} {rest : List Answer} {s : State}
    (h : s.answers = cutAnswers rx k (stopAnswer x) ++ rest) :
    ∃ r rd, frame tx s = .stopped x (frameCut tx rx r rd k x s) := by
  have hk : k = ⟨3 * (⟨k.val / 3, by omega⟩ : Fin 6).val + (⟨k.val % 3, by omega⟩ : Fin 3).val, by simp; omega⟩ := by
    ext; simp; omega
  rw [hk] at h
  obtain ⟨r, rd, hw⟩ := frameWords_cut (tx := tx) (r0 := s.rx) (rd0 := s.reading) h
  rw [← hk] at hw
  refine ⟨r, rd, ?_⟩
  have ho : ∃ l, s.answers = .ok :: l := by
    rw [h, cutAnswers_split]; exact ⟨_, rfl⟩
  obtain ⟨l, ho⟩ := ho
  unfold frame xchg6
  rw [openFrame_ok (s := { s with tx := tx }) (rest := l) ho, bind_done]
  refine Eq.trans (congrArg (fun r => Reply.bind (Reply.bind r _) _) hw) ?_
  rw [bind_stopped, bind_stopped]

/-! ## The frame of a transmitted Word (R14, R53, R76) -/

/-- In an open frame a Word opens none. -/
theorem wordScope_of_sel {t : Word} {s : State} (h : s.sel = true) : wordScope t s = .done () s := if_pos h

/-- Where no frame is open, a Word opens one whose six transmit Words are loaded with it and null fillers, or the bus is
not granted. -/
theorem wordScope_ends {t : Word} {s : State} (h : s.sel = false) :
    wordScope t s = .done () ((beginOp s).inFrame (cmdFrame t) s.rx s.reading 1 ⟨0, 0⟩
      [.busConfigure s.sclkHz .msbFirst Config.busMode .ok, .selAssert]) ∨
    ∃ x, wordScope t s = .stopped x (frameUnclaimed (cmdFrame t) x (beginOp s)) := by
  have hw : wordScope t s = openFrame { beginOp s with tx := cmdFrame t } := if_neg (by simp [h])
  rw [hw]
  rcases openFrame_ends { beginOp s with tx := cmdFrame t } with h | ⟨x, h⟩
  · exact .inl h
  · exact .inr ⟨x, h⟩

end Sys2Proof.Machine
end

