-- ==== Sys2Proof/Laws/Exec.lean ====
section
/-! SUPPORT. The instructions, said once: how a host operation is accepted, the two ways it can end, what the fault exit
does, and the meaning of a decoded Word. -/

namespace Sys2Proof.Machine

/-! ## Acceptance -/

theorem busy_eq_false (s : State) : s.busy = false ↔
    s.stalled = false ∧ s.sel = false ∧ s.inWord = none ∧ s.running = none := by
  simp [State.busy]; tauto

/-- A quiescent block accepts a host operation (R8, R24). -/
theorem not_busy_of_quiescent {s : State} (h : Quiescent s) : s.busy = false :=
  (busy_eq_false s).2 ⟨h.2.2.2.1, h.1, h.2.2.1, h.2.2.2.2⟩

theorem hostOp_next {run : State → State} {s : State} (hb : s.busy = false) :
    hostOp run s = .next (run (beginOp s)) := by
  simp [hostOp, hb]

/-- A host operation that was accepted: nothing was in progress, and its end is the state (R8). -/
theorem hostOp_ok {run : State → State} {s t : State} (h : hostOp run s = .next t) :
    s.busy = false ∧ t = run (beginOp s) := by
  unfold hostOp at h
  split at h <;> cases h
  next hb => exact ⟨by simpa using hb, rfl⟩

/-! ## The fault exit (R79, R95, R11) -/

section FaultExit
variable (e : TErr) (mk : Nat → Result) (n : Nat) (s : State)

@[simp] theorem raise_pend : (raiseTransportFault e mk n s).pend = ⟨.none, 0⟩ := rfl
@[simp] theorem raise_frameNo : (raiseTransportFault e mk n s).frameNo = 0 := rfl

@[simp] theorem raise_response :
    (raiseTransportFault e mk n s).response = some ⟨.transportFault, some e, mk (s.draws + 6)⟩ := by
  unfold raiseTransportFault faultExit; split <;> rfl

@[simp] theorem raise_sel : (raiseTransportFault e mk n s).sel = false := by
  unfold raiseTransportFault faultExit
  cases h : s.sel
  · exact h
  · rfl

@[simp] theorem raise_busHeld : (raiseTransportFault e mk n s).busHeld = if s.sel then false else s.busHeld := by
  unfold raiseTransportFault faultExit; split <;> rfl

@[simp] theorem raise_trace :
    (raiseTransportFault e mk n s).trace = s.trace ++ if s.sel then [.selDeassert, .busRelease] else [] := by
  unfold raiseTransportFault faultExit; split <;> simp

@[simp] theorem raise_device : (raiseTransportFault e mk n s).device = if s.sel then none else s.device := by
  unfold raiseTransportFault faultExit; split <;> rfl

@[simp] theorem raise_seq : (raiseTransportFault e mk n s).seq = s.seq := by
  unfold raiseTransportFault faultExit; split <;> rfl
@[simp] theorem raise_inWord : (raiseTransportFault e mk n s).inWord = s.inWord := by
  unfold raiseTransportFault faultExit; split <;> rfl
@[simp] theorem raise_stalled : (raiseTransportFault e mk n s).stalled = s.stalled := by
  unfold raiseTransportFault faultExit; split <;> rfl
@[simp] theorem raise_running : (raiseTransportFault e mk n s).running = s.running := by
  unfold raiseTransportFault faultExit; split <;> rfl
@[simp] theorem raise_grain : (raiseTransportFault e mk n s).grain = s.grain := by
  unfold raiseTransportFault faultExit; split <;> rfl
@[simp] theorem raise_requests : (raiseTransportFault e mk n s).requests = s.requests := by
  unfold raiseTransportFault faultExit; split <;> rfl
@[simp] theorem raise_answers : (raiseTransportFault e mk n s).answers = s.answers := by
  unfold raiseTransportFault faultExit; split <;> rfl
@[simp] theorem raise_sclkHz : (raiseTransportFault e mk n s).sclkHz = s.sclkHz := by
  unfold raiseTransportFault faultExit; split <;> rfl
@[simp] theorem raise_clkinHz : (raiseTransportFault e mk n s).clkinHz = s.clkinHz := by
  unfold raiseTransportFault faultExit; split <;> rfl

end FaultExit

/-- How an operation ends at a primitive that did not complete (R79, R80). -/
def opStop (x : Stop) (mk : Nat → Result) (n : Nat) (u : State) : State :=
  match x with
  | some e => raiseTransportFault e mk n u
  | none => hang u

@[simp] theorem opStop_some (e : TErr) (mk : Nat → Result) (n : Nat) (u : State) :
    opStop (some e) mk n u = raiseTransportFault e mk n u := rfl

@[simp] theorem opStop_none (mk : Nat → Result) (n : Nat) (u : State) : opStop none mk n u = hang u := rfl

@[simp] theorem finish_stopped {α : Type} (x : Stop) (s : State) (mk : Nat → Result) (n : Nat)
    (k : α → State → State) : finish (.stopped x s) mk n k = opStop x mk n s := by
  cases x <;> rfl

/-! ## The two ways a host operation ends -/

/-- `n` frames that completed, one after the other, from `s` to `t`. -/
inductive Frames : Nat → State → State → Prop where
  | nil (s : State) : Frames 0 s s
  | cons {n : Nat} {s u t : State} (tx rx : Frame) : Frames n s u →
      t = afterFrame tx rx (u.answers.drop 19) u → frame tx u = .done (correlate u.pend rx[0]) t → Frames (n + 1) s t

/-- The operations that compare an acknowledgement (R99, R101). -/
def isWriteOp : Instr → Bool
  | .writeReg _ _ => true
  | .setGain _ _ _ _ => true
  | .globalChop _ _ => true
  | _ => false

/-- A host operation with frames ends with a record after all its frames, or stops in one of them. -/
inductive OpEnds (i : Instr) (s : State) : State → Prop where
  /-- All frames completed: the record's cause and result, and what the last frame leaves in `PEND`. -/
  | done (c : Cause) (res : Result) (u : State) : Frames (framesOf i) s u → c ≠ .transportFault →
      (c = .ackMismatch → isWriteOp i = true) → (∀ b, res = .success b → b = successOf c) →
      ((∀ cmd, i ≠ .xchgFrame cmd) → (∀ k a v, i ≠ .sendCommand k a v) → u.pend = ⟨.none, 0⟩) →
      OpEnds i s (deliver c res u)
  /-- A frame stopped after `m` that completed: the operation makes no further frame. -/
  | stop (m : Nat) (tx : Frame) (x : Stop) (u v : State) (mk : Nat → Result) (n : Nat) : m < framesOf i →
      Frames m s u → frame tx u = .stopped x v → (∀ k b, mk k = .success b → b = false) →
      OpEnds i s (opStop x mk n v)

theorem Frames.trans {m n : Nat} {s t u : State} (h1 : Frames m s t) (h2 : Frames n t u) : Frames (m + n) s u := by
  induction h2 with
  | nil => exact h1
  | cons tx rx h he hf ih => exact .cons tx rx (ih h1) he hf

/-- A frame completes or stops. -/
theorem frame_done_or_stopped (tx : Frame) (s : State) :
    (∃ rx, frame tx s = .done (correlate s.pend rx[0]) (afterFrame tx rx (s.answers.drop 19) s)) ∨
    ∃ x v, frame tx s = .stopped x v := by
  rcases frame_ends tx s with h | ⟨x, h⟩ | ⟨rx, r, rd, k, x, h⟩
  · exact .inl h
  · exact .inr ⟨_, _, h⟩
  · exact .inr ⟨_, _, h⟩

theorem bind_bind {α β γ : Type} (r : Reply α) (f : α → State → Reply β) (g : β → State → Reply γ) :
    (r.bind f).bind g = r.bind fun a s => (f a s).bind g := by
  cases r <;> rfl

/-- The rule of two frames, one after the other. -/
theorem two_frames {β : Type} (P : Reply β → Prop) (tx1 tx2 : Frame) (s : State) (f : Resp → State → Reply β)
    (h0 : ∀ x v, frame tx1 s = .stopped x v → P (.stopped x v))
    (h1 : ∀ u x v, Frames 1 s u → frame tx2 u = .stopped x v → P (.stopped x v))
    (h2 : ∀ u r, Frames 2 s u → u.pend = kindOf tx2[0] → P (f r u)) :
    P ((frame tx1 s).bind fun _ u => (frame tx2 u).bind f) := by
  rcases frame_done_or_stopped tx1 s with ⟨rx, h⟩ | ⟨x, v, h⟩ <;> rw [h]
  case inr => rw [bind_stopped]; exact h0 _ _ h
  rw [bind_done]
  have hf : Frames 1 s _ := .cons tx1 rx (.nil _) rfl h
  rcases frame_done_or_stopped tx2 (afterFrame tx1 rx (s.answers.drop 19) s) with ⟨rx2, h'⟩ | ⟨x, v, h'⟩ <;> rw [h']
  case inr => rw [bind_stopped]; exact h1 _ _ _ hf h'
  rw [bind_done]
  exact h2 _ _ (.cons tx2 rx2 hf rfl h') rfl

/-- An operation of one frame. -/
theorem oneFrame_ends {i : Instr} {s : State} (tx : Frame) (mk : Nat → Result) (n : Nat) (res : Resp → State → Result)
    (hf : framesOf i = 1) (hm : ∀ k b, mk k = .success b → b = false) (hr : ∀ r u b, res r u ≠ .success b)
    (hp : (∀ cmd, i ≠ .xchgFrame cmd) → (∀ k a v, i ≠ .sendCommand k a v) → tx = cmdFrame nullWord) :
    OpEnds i s (finish (frame tx s) mk n fun r s => deliver .none (res r s) s) := by
  rcases frame_done_or_stopped tx s with ⟨rx, h⟩ | ⟨x, v, h⟩ <;> rw [h]
  · exact .done _ _ _ (by rw [hf]; exact .cons tx rx (.nil _) rfl h) (by simp) (by simp)
      (fun b hb => absurd hb (hr _ _ _)) (fun h1 h2 => by rw [hp h1 h2]; rfl)
  · rw [finish_stopped]
    exact .stop 0 tx x s v mk n (by omega) (.nil _) h hm

/-- An operation that stops in its frame `m + 1`. -/
theorem stopped_ends {i : Instr} {α : Type} {s u v : State} {tx : Frame} {x : Stop} (m : Nat) {mk : Nat → Result}
    {n : Nat} {k : α → State → State} (hm : m < framesOf i) (hf : Frames m s u) (h : frame tx u = .stopped x v)
    (hk : ∀ j b, mk j = .success b → b = false) : OpEnds i s (finish (.stopped x v : Reply α) mk n k) := by
  rw [finish_stopped]; exact .stop m tx x u v mk n hm hf h hk

theorem deliverAck_ends {i : Instr} {s u : State} {b : Bool} (hf : Frames (framesOf i) s u)
    (hp : u.pend = ⟨.none, 0⟩) (hi : isWriteOp i = true) : OpEnds i s (deliverAck b u) := by
  refine .done _ _ _ hf ?_ (fun _ => hi) ?_ (fun _ _ => hp)
  · cases b <;> simp [ackCause]
  · rintro _ ⟨⟩; rfl

/-- A register write as a whole operation (R99). -/
theorem writeRegOp_ends {i : Instr} {s : State} (a : Addr) (v : RegVal) (hf : framesOf i = 2)
    (hi : isWriteOp i = true) : OpEnds i s (writeRegOp a v s) := by
  have hk : ∀ (j : Nat) (b : Bool), Result.success false = .success b → b = false := by
    intro _ _ h; cases h; rfl
  unfold writeRegOp writeRegFrames sendCommandFrame fetchFrame
  rw [bind_bind]
  simp only [bind_done]
  refine two_frames (P := fun r => OpEnds i s (finish r _ _ _)) _ _ _ _ ?_ ?_ ?_
  · intro x v h; exact stopped_ends 0 (by omega) (.nil _) h hk
  · intro u x v hu h; exact stopped_ends 1 (by omega) hu h hk
  · intro u r hu hp; exact deliverAck_ends (by rw [hf]; exact hu) hp hi

/-- Everything an accepted host operation can do (R69, R165): the setters set their register and end; any other makes its
frames, and ends after the last one or in one of them. -/
theorem exec_ends {i : Instr} {s t : State} (hi : isHostOp i = true) (h : exec i s = .next t) :
    s.busy = false ∧
    ((∃ hz, i = .setSclk hz ∧ t = deliver .none .none { beginOp s with sclkHz := hz }) ∨
     (∃ hz, i = .setClkin hz ∧ t = deliver .none .none { beginOp s with clkinHz := hz }) ∨
     (0 < framesOf i ∧ wellFormed i = true ∧ OpEnds i (beginOp s) t)) := by
  have hk : ∀ (j : Nat) (b : Bool), Result.success false = .success b → b = false := by
    intro _ _ h; cases h; rfl
  cases i <;> simp [isHostOp, wireWord] at hi <;> simp only [exec] at h <;>
    (try (obtain ⟨hb, rfl⟩ := hostOp_ok h; refine ⟨hb, ?_⟩))
  case xchgFrame cmd =>
    exact .inr (.inr ⟨by simp [framesOf], rfl,
      oneFrame_ends _ drawFrame 7 (fun r s => .frame s.rx r) rfl (by simp [drawFrame]) (by simp) (by simp)⟩)
  case sendCommand k a v =>
    refine .inr (.inr ⟨by simp [framesOf], rfl, ?_⟩)
    have := oneFrame_ends (i := .sendCommand k a v) (s := beginOp s) (sendFrame k a v) (fun _ => .none) 0
      (fun r s => .none) rfl (by simp) (by simp) (by simp)
    unfold sendCommandFrame
    cases hfr : frame (sendFrame k a v) (beginOp s) <;> rw [hfr] at this <;> exact this
  case fetchResponse =>
    exact .inr (.inr ⟨by simp [framesOf], rfl,
      oneFrame_ends _ _ _ (fun r s => .resp r) rfl (by simp) (by simp) (by simp)⟩)
  case readChannels idx =>
    exact .inr (.inr ⟨by simp [framesOf], rfl,
      oneFrame_ends _ _ _ (fun r s => .samples (idx.map (sampleOf s.rx))) rfl (by simp [drawSamples]) (by simp)
        (by simp)⟩)
  case readChannelSingle c =>
    exact .inr (.inr ⟨by simp [framesOf], rfl,
      oneFrame_ends _ _ _ (fun r s => .sample (sampleOf s.rx c)) rfl (by simp) (by simp) (by simp)⟩)
  case readReg a =>
    refine .inr (.inr ⟨by simp [framesOf], rfl, ?_⟩)
    unfold readRegFrames sendCommandFrame fetchFrame
    rw [bind_bind]
    simp only [bind_done]
    refine two_frames (P := fun r => OpEnds _ _ (finish r _ _ _)) _ _ _ _ ?_ ?_ ?_
    · intro x v h; exact stopped_ends 0 (by simp [framesOf]) (.nil _) h (by simp)
    · intro u x v hu h; exact stopped_ends 1 (by simp [framesOf]) hu h (by simp)
    · intro u r hu hp; rw [finish_done]; exact .done _ _ _ hu (by simp) (by simp) (by simp) (fun _ _ => hp)
  case writeReg a v => exact .inr (.inr ⟨by simp [framesOf], rfl, writeRegOp_ends a v rfl rfl⟩)
  case setGain g0 g1 g2 g3 => exact .inr (.inr ⟨by simp [framesOf], rfl, writeRegOp_ends _ _ rfl rfl⟩)
  case globalChop en d =>
    unfold execGlobalChop at h
    split at h
    case isFalse => cases h
    next hd =>
    obtain ⟨hb, rfl⟩ := hostOp_ok h
    refine ⟨hb, .inr (.inr ⟨by simp [framesOf], hd, ?_⟩)⟩
    unfold chopFrames readRegFrames sendCommandFrame fetchFrame
    simp only [bind_bind, bind_done]
    refine two_frames (P := fun r => OpEnds _ _ (finish r _ _ _)) _ _ _ _ ?_ ?_ ?_
    · intro x v h; exact stopped_ends 0 (by simp [framesOf]) (.nil _) h hk
    · intro u x v hu h; exact stopped_ends 1 (by simp [framesOf]) hu h hk
    · intro u r hu hp
      unfold writeRegFrames sendCommandFrame fetchFrame
      simp only [bind_bind, bind_done]
      refine two_frames (P := fun r => OpEnds _ _ (finish r _ _ _)) _ _ _ _ ?_ ?_ ?_
      · intro x v h; exact stopped_ends 2 (by simp [framesOf]) hu h hk
      · intro u x v hu' h; exact stopped_ends 3 (by simp [framesOf]) (hu.trans hu') h hk
      · intro u r hu' hp; exact deliverAck_ends (hu.trans hu') hp rfl
  case setSclk hz => exact .inl ⟨_, rfl, rfl⟩
  case setClkin hz => exact .inr (.inl ⟨_, rfl, rfl⟩)

/-! ## The meaning of a decoded Word -/

/-- A transmit Word that is a row of the table is sent as it stands (R53, R71). -/
theorem exec_decodeTx {i : Fin 6} {cmd w : Word} {ins : Instr} (h : decodeTx i cmd w = some ins) (s : State) :
    exec ins s = txWord w s := by
  have hk := eq_of_kindOf w
  unfold decodeTx at h
  split at h
  · split at h <;> cases h
    · show txWord nullWord s = _; rw [← hk.1 ‹_›]
    · show txWord (mkCmd .rreg _) s = _; rw [← hk.2.1 ‹_›]
    · show txWord (mkCmd .wreg _) s = _; rw [← hk.2.2 ‹_›]
  · split at h
    · split at h <;> cases h
      next hp => show txWord (wdataWord _) s = _; rw [wdataWord_eq, ← hp, rdataWord_fields]
    · split at h <;> cases h
      next h0 => rw [h0]; rfl

/-- A received Word is stored as it came, whichever row it is (R15, R54, R71). -/
theorem exec_decodeRx (i : Fin 6) (k : Kind) (w : Word) (s : State) : exec (decodeRx i k w) s = rxWord w s := by
  unfold decodeRx
  split
  · cases k
    · rfl
    · show rxWord _ s = _; rw [rdataWord_fields]
    · simp only
      split
      · next hp =>
        show rxWord (mkAck _) s = _
        conv_rhs => rw [eq_cmdWord_of_hasPrefix w _ hp]
        rfl
      · rfl
    · rfl
  · split <;> rfl

end Sys2Proof.Machine
end

