-- ==== Sys2Proof/Laws/PerInstr.lean ====
section
/-! SUPPORT. The per-instruction family `EncodingShape`: the shape of every instruction's encoding, one lemma for each
constructor of `Instr`. -/

namespace Sys2Proof.Laws

/-- The selector of a host operation (R69 column "OPSEL"); none for a Word of the wire. -/
def EncodingShape.opsel : Instr → Option Byte
  | .null => none
  | .rreg _ => none
  | .wreg _ => none
  | .wdata _ => none
  | .wack _ => none
  | .rdata _ _ => none
  | .status _ => none
  | .chdata _ => none
  | .crc _ => none
  | .xchgFrame _ => some 0x0
  | .sendCommand _ _ _ => some 0x1
  | .fetchResponse => some 0x2
  | .readChannels _ => some 0x3
  | .readChannelSingle _ => some 0x4
  | .readReg _ => some 0x5
  | .writeReg _ _ => some 0x6
  | .setGain _ _ _ _ => some 0x7
  | .globalChop _ _ => some 0x8
  | .setSclk _ => some 0x9
  | .setClkin _ => some 0xA

/-- A Word of the wire is encoded as its three bytes, the most significant first (R52); a host operation as its selector
and then its operands (R69). -/
def EncodingShape.Statement (i : Instr) : Prop :=
  match wireWord i, EncodingShape.opsel i with
  | some w, none => encode i = wordBytes w ∧ (encode i).length = 3
  | none, some op => ∃ operands, encode i = op :: operands
  | _, _ => False

theorem EncodingShape.null : EncodingShape.Statement .null := ⟨rfl, rfl⟩

theorem EncodingShape.rreg (a : Addr) : EncodingShape.Statement (.rreg a) := ⟨rfl, rfl⟩

theorem EncodingShape.wreg (a : Addr) : EncodingShape.Statement (.wreg a) := ⟨rfl, rfl⟩

theorem EncodingShape.wdata (v : RegVal) : EncodingShape.Statement (.wdata v) := ⟨rfl, rfl⟩

theorem EncodingShape.wack (a : Addr) : EncodingShape.Statement (.wack a) := ⟨rfl, rfl⟩

theorem EncodingShape.rdata (v : RegVal) (low : Byte) : EncodingShape.Statement (.rdata v low) := ⟨rfl, rfl⟩

theorem EncodingShape.status (w : Word) : EncodingShape.Statement (.status w) := ⟨rfl, rfl⟩

theorem EncodingShape.chdata (w : Word) : EncodingShape.Statement (.chdata w) := ⟨rfl, rfl⟩

theorem EncodingShape.crc (w : Word) : EncodingShape.Statement (.crc w) := ⟨rfl, rfl⟩

theorem EncodingShape.xchgFrame (cmd : Word) : EncodingShape.Statement (.xchgFrame cmd) := ⟨_, rfl⟩

theorem EncodingShape.sendCommand (k : CmdKind) (a : Addr) (v : RegVal) : EncodingShape.Statement (.sendCommand k a v) := ⟨_, rfl⟩

theorem EncodingShape.fetchResponse : EncodingShape.Statement .fetchResponse := ⟨_, rfl⟩

theorem EncodingShape.readChannels (idx : List Chan) : EncodingShape.Statement (.readChannels idx) := ⟨_, rfl⟩

theorem EncodingShape.readChannelSingle (c : Chan) : EncodingShape.Statement (.readChannelSingle c) := ⟨_, rfl⟩

theorem EncodingShape.readReg (a : Addr) : EncodingShape.Statement (.readReg a) := ⟨_, rfl⟩

theorem EncodingShape.writeReg (a : Addr) (v : RegVal) : EncodingShape.Statement (.writeReg a v) := ⟨_, rfl⟩

theorem EncodingShape.setGain (g0 g1 g2 g3 : Gain) : EncodingShape.Statement (.setGain g0 g1 g2 g3) := ⟨_, rfl⟩

theorem EncodingShape.globalChop (en : Bool) (d : BitVec 5) : EncodingShape.Statement (.globalChop en d) := ⟨_, rfl⟩

theorem EncodingShape.setSclk (hz : Hz) : EncodingShape.Statement (.setSclk hz) := ⟨_, rfl⟩

theorem EncodingShape.setClkin (hz : Hz) : EncodingShape.Statement (.setClkin hz) := ⟨_, rfl⟩

end Sys2Proof.Laws
end

