-- ==== Sys2Proof/Laws/Primitive.lean ====
section
/-! SUPPORT. The steps of R8, said once: what accepting an instruction can do, what one step can do to the wire trace, and
the frame as a run of steps that follows `frame`. -/

namespace Sys2Proof.Machine

/-! ## The step inside an operation -/

theorem step_going {s : State} {r : Running} (hs : s.stalled = false) (hr : s.running = some r) :
    step s = .next (tick s) := by
  simp [step, fetch, hs, hr]

/-- The next step of an operation in progress is the first of those it has still to make (R8). -/
theorem step_running {s : State} {r : Running} {a : Action} {as : List Action} (hs : s.stalled = false)
    (hr : s.running = some r) (h : r.todo = a :: as) : step s = .next (act a { r with todo := as } s) := by
  rw [step_going hs hr]; simp [tick, hr, h]

/-- A step is at most one primitive, so it makes at most one event (R8, R10). -/
theorem act_trace (a : Action) (r : Running) (s : State) :
    (act a r s).trace = s.trace ∨ ∃ e, (act a r s).trace = s.trace ++ [e] := by
  cases a <;> simp only [act]
  case busConfigure =>
    rcases busConfigure_cases s with h | ⟨e, h⟩ | h <;> simp [h, answered]
  case xferByte w b =>
    rcases xferByte_ends (wordByte s.tx[w] b) s with ⟨b, h⟩ | ⟨_ | e, h⟩ <;> rw [h] <;>
      simp [answered, Reply.stopped, State.played]
  case deliver => left; cases r.op <;> rfl
  case take => left; rfl
  all_goals simp [abortOp]

/-- An operation's own end leaves nothing running. -/
theorem endOp_running (op : Instr) (r : Resp) (s : State) : (endOp op r s).running = s.running := by
  cases op <;> rfl

/-- No phase is left with no step to come: an operation is over with its last step. -/
theorem runs_nil (p : Phase) : p.runs [] = false := by cases p <;> rfl

/-- The steps of a host operation may follow where no scope is held (R24, R76). -/
theorem runs_actions {i : Instr} (h : isHostOp i = true) : Phase.idle.runs (actions i) = true := by
  cases i <;> simp [isHostOp, wireWord] at h <;> rfl

/-! ## Accepting an instruction -/

/-- The ways an instruction is accepted (R8, log 13). -/
inductive Accepted (i : Instr) (s : State) : State → Prop where
  | operation : isHostOp i = true → wellFormed i = true → s.busy = false →
      Accepted i s (start i (actions i) (beginOp s))
  | sent (t : Word) : txRow i = some t → s.engaged = false → s.inWord = none → Accepted i s (startWord t s)
  | received (x w : Word) (j : Fin 6) : rxRow i = some x → s.engaged = false → s.inWord = some (j, w) →
      Accepted i s (startTake j x s)

theorem issueOp_ok {i : Instr} {s u : State} (h : issueOp i s = .next u) :
    s.busy = false ∧ u = start i (actions i) (beginOp s) := by
  unfold issueOp at h
  split at h <;> cases h
  next hb => exact ⟨by simpa using hb, rfl⟩

theorem issueTx_ok {t : Word} {s u : State} (h : issueTx t s = .next u) :
    s.engaged = false ∧ s.inWord = none ∧ u = startWord t s := by
  unfold issueTx at h
  split at h
  · cases h
  · split at h <;> cases h
    exact ⟨by simpa using ‹¬s.engaged = true›, by simpa using ‹¬s.inWord.isSome = true›, rfl⟩

theorem issueRx_ok {t : Word} {s u : State} (h : issueRx t s = .next u) :
    s.engaged = false ∧ ∃ j w, s.inWord = some (j, w) ∧ u = startTake j t s := by
  unfold issueRx at h
  split at h
  · cases h
  · split at h <;> cases h
    exact ⟨by simpa using ‹¬s.engaged = true›, _, _, ‹_›, rfl⟩

/-- Everything accepting an instruction can do. -/
theorem issue_ok {i : Instr} {s u : State} (h : issue i s = .next u) : Accepted i s u := by
  cases i <;> simp only [issue] at h
  case globalChop en d =>
    split at h
    · obtain ⟨hb, rfl⟩ := issueOp_ok h; exact .operation rfl ‹_› hb
    · cases h
  all_goals first
    | (obtain ⟨hb, rfl⟩ := issueOp_ok h; exact .operation rfl rfl hb)
    | (obtain ⟨h1, h2, rfl⟩ := issueTx_ok h; exact .sent _ rfl h1 h2)
    | (obtain ⟨h1, j, w, h2, rfl⟩ := issueRx_ok h; exact .received _ w j rfl h1 h2)

theorem startWord_trace (t : Word) (s : State) : (startWord t s).trace = s.trace := by
  unfold startWord; split <;> rfl

/-- Accepting an instruction makes no event: its first primitive is still to come. -/
theorem issue_trace {i : Instr} {s u : State} (h : issue i s = .next u) : u.trace = s.trace := by
  cases issue_ok h with
  | operation => rfl
  | sent t => exact startWord_trace t s
  | received => rfl

/-! ## Runs of steps -/

/-- `n` steps lead from `u` to `t`, an operation being in progress before each. -/
def Steps (n : Nat) (u t : State) : Prop :=
  stepN n u = .next t ∧ ∀ m < n, ∃ v, stepN m u = .next v ∧ v.running.isSome = true

theorem Steps.zero (u : State) : Steps 0 u u := ⟨rfl, by simp⟩

theorem Steps.succ {n : Nat} {u v t : State} (h1 : step u = .next v) (h2 : u.running.isSome = true)
    (h : Steps n v t) : Steps (n + 1) u t := by
  refine ⟨by simp [stepN, h1, h.1], fun m hm => ?_⟩
  cases m with
  | zero => exact ⟨u, rfl, h2⟩
  | succ m => obtain ⟨w, hw, hw'⟩ := h.2 m (by omega); exact ⟨w, by simp [stepN, h1, hw], hw'⟩

theorem Steps.trans {m n : Nat} {u v t : State} (h : Steps m u v) (g : Steps n v t) : Steps (m + n) u t := by
  induction m generalizing u with
  | zero => cases h.1; simpa using g
  | succ m ih =>
    obtain ⟨w0, hw0, hr⟩ := h.2 0 (by omega)
    cases hw0
    have h1 := h.1
    simp only [stepN] at h1
    split at h1 <;> try cases h1
    rename_i w hw
    rw [Nat.add_right_comm]
    refine Steps.succ hw hr (ih ⟨h1, fun k hk => ?_⟩)
    obtain ⟨x, hx, hx'⟩ := h.2 (k + 1) (by omega)
    simp only [stepN, hw] at hx
    exact ⟨x, hx, hx'⟩

/-- `s` with the operation `op` in progress. -/
def State.at (op : Instr) (todo : List Action) (acc : Word) (resp : Resp) (s : State) : State :=
  { s with running := some ⟨op, todo, acc, resp⟩ }

section Sim
variable {op : Instr} {acc : Word} {resp : Resp} {s : State}

/-- One step of an operation in progress, by what its action does. -/
theorem step_one {a : Action} {as : List Action} {t : State} (hs : s.stalled = false)
    (h : act a ⟨op, as, acc, resp⟩ (s.at op (a :: as) acc resp) = t) : Steps 1 (s.at op (a :: as) acc resp) t := by
  have hstep : step (s.at op (a :: as) acc resp) = .next t := by
    rw [← h]; exact step_running (r := ⟨op, a :: as, acc, resp⟩) hs rfl rfl
  exact Steps.succ hstep rfl (.zero t)

theorem goOn_at {todo as : List Action} {acc' : Word} {resp' : Resp} (h : as ≠ []) :
    goOn ⟨op, as, acc', resp'⟩ (s.at op todo acc resp) = s.at op as acc' resp' := by
  simp [goOn, State.at, h]

/-- What holds of a state inside the Words of a frame that began in `s`. -/
structure InWords (s v : State) : Prop where
  running : v.running = none
  stalled : v.stalled = false
  tx : v.tx = s.tx
  sel : v.sel = true

theorem InWords.trans {s u v : State} (h : InWords s u) (g : InWords u v) : InWords s v :=
  ⟨g.running, g.stalled, g.tx.trans h.tx, g.sel⟩

/-- The steps from `u` follow the function `c` run from `s`: where it ends with a value `K` holds after exactly `N` steps;
the fault exit, or the stall, is reached in at most `N`. -/
def Follows {α : Type} (N : Nat) (op : Instr) (resp : Resp) (u s : State) (c : Reply α)
    (K : α → State → State → Prop) : Prop :=
  c.Ends (fun a v => InWords s v ∧ ∃ t, K a v t ∧ Steps N u t)
    (fun e v => InWords s v ∧
      ∃ n ≤ N, ∃ acc, Steps n u (v.at op [.selDeassert false, .busRelease, .abort e] acc resp))
    (fun v => v.running = none ∧ ∃ n ≤ N, 0 < n ∧ Steps n u (hang v))

/-- The rule of composition. -/
theorem Follows.bind {α β : Type} {M N : Nat} {u : State} {c : Reply α} {f : α → State → Reply β}
    {K : α → State → State → Prop} {K' : β → State → State → Prop} (h : Follows M op resp u s c K)
    (hf : ∀ a v t, InWords s v → K a v t → Follows N op resp t v (f a v) K') :
    Follows (M + N) op resp u s (c.bind f) K' := by
  cases c with
  | fault e v => obtain ⟨hk, n, hn, a, h⟩ := h; exact ⟨hk, n, by omega, a, h⟩
  | stall v => obtain ⟨hk, n, hn, h⟩ := h; exact ⟨hk, n, by omega, h⟩
  | done a v =>
    obtain ⟨hk, t, ht, hs⟩ := h
    have hf := hf a v t hk ht
    simp only [bind_done]
    cases hc : f a v <;> rw [hc] at hf
    · obtain ⟨hk', t, ht, h⟩ := hf; exact ⟨hk.trans hk', t, ht, hs.trans h⟩
    · obtain ⟨hk', n, hn, a, h⟩ := hf; exact ⟨hk.trans hk', M + n, by omega, a, hs.trans h⟩
    · obtain ⟨hk', n, hn, h0, h⟩ := hf; exact ⟨hk', M + n, by omega, by omega, hs.trans h⟩

/-- One byte is one step (R8, R10). -/
theorem xferByte_follows (w : Fin 6) (b : Fin 3) {as : List Action} (has : as ≠ []) (hs : s.stalled = false)
    (hr : s.running = none) (hsel : s.sel = true) :
    Follows 1 op resp (s.at op (.xferByte w b :: as) acc resp) s (xferByte (wordByte s.tx[w] b) s)
      fun i v t => t = v.at op as (acc <<< 8 ||| i.setWidth 24) resp := by
  have hx := step_one (op := op) (acc := acc) (resp := resp) (a := .xferByte w b) (as := as) hs rfl
  simp only [act] at hx
  have hq : xferByte (wordByte (s.at op (.xferByte w b :: as) acc resp).tx[w] b) (s.at op (.xferByte w b :: as) acc resp) =
      match xferByte (wordByte s.tx[w] b) s with
      | .done i v => .done i (v.at op (.xferByte w b :: as) acc resp)
      | .fault e v => .fault e (v.at op (.xferByte w b :: as) acc resp)
      | .stall v => .stall (v.at op (.xferByte w b :: as) acc resp) := by
    unfold xferByte
    rw [show nextAnswer (s.at op (.xferByte w b :: as) acc resp) = nextAnswer s from rfl]
    cases nextAnswer s <;> rfl
  rw [hq] at hx
  rcases xferByte_ends (wordByte s.tx[w] b) s with ⟨i, h⟩ | ⟨_ | e, h⟩ <;> rw [h] at hx ⊢ <;>
    simp only [answered, Reply.stopped] at hx
  · rw [goOn_at has] at hx
    exact ⟨⟨hr, hs, rfl, hsel⟩, _, rfl, hx⟩
  · refine ⟨hr, 1, le_refl _, by simp, ?_⟩
    convert hx using 1
    simp [State.at, State.played, hr]
  · rw [goOn_at (by simp)] at hx
    exact ⟨⟨hr, hs, rfl, hsel⟩, 1, le_refl _, _, hx⟩

/-- Three bytes shifted in are the Word they make, whatever was there before (R37, R75). -/
theorem shifted_bytes (x : Word) (a b c : Byte) :
    ((x <<< 8 ||| a.setWidth 24) <<< 8 ||| b.setWidth 24) <<< 8 ||| c.setWidth 24 = bytesWord a b c := by
  apply BitVec.eq_of_getLsbD_eq
  intro i hi
  have h := hi
  interval_cases i <;> simp [bytesWord]

/-- A Word is three steps (R75). -/
theorem xferWord_follows (w : Fin 6) {as : List Action} (has : as ≠ []) (hs : s.stalled = false)
    (hr : s.running = none) (hsel : s.sel = true) :
    Follows 3 op resp (s.at op (.xferByte w 0 :: .xferByte w 1 :: .xferByte w 2 :: as) acc resp) s
      (xferWord s.tx[w] s) fun r v t => t = v.at op as r resp := by
  unfold xferWord
  refine Follows.bind (M := 1) (N := 2) (xferByte_follows w 0 (by simp) hs hr hsel) fun a u t hu ht => ?_
  subst ht
  rw [← hu.tx]
  refine Follows.bind (M := 1) (N := 1) (xferByte_follows w 1 (by simp) hu.stalled hu.running hu.sel)
    fun b v t hv ht => ?_
  subst ht
  rw [← hv.tx]
  refine Follows.bind (M := 1) (N := 0) (xferByte_follows w 2 has hv.stalled hv.running hv.sel)
    fun c x t hx ht => ?_
  subst ht
  rw [shifted_bytes]
  exact ⟨⟨hx.running, hx.stalled, rfl, hx.sel⟩, _, rfl, .zero _⟩

/-- The Words of a frame are four steps each, three bytes and the store (R76). -/
theorem xferWords_follows (is : List (Fin 6)) : ∀ {acc : Word} {s : State} {as : List Action}, as ≠ [] →
    s.stalled = false → s.running = none → s.sel = true →
    Follows (4 * is.length) op resp (s.at op (is.flatMap wordActions ++ as) acc resp) s (xferWords is s)
      fun _ v t => ∃ a, t = v.at op as a resp := by
  induction is with
  | nil => intro acc s as has hs hr hsel; exact ⟨⟨hr, hs, rfl, hsel⟩, _, ⟨acc, rfl⟩, .zero _⟩
  | cons i is ih =>
    intro acc s as has hs hr hsel
    rw [xferWords, show 4 * (i :: is).length = 3 + (1 + 4 * is.length) by simp; omega]
    refine Follows.bind (xferWord_follows i (as := .store i :: (is.flatMap wordActions ++ as)) (by simp) hs hr hsel)
      fun r v t hv ht => ?_
    subst ht
    have hst : Steps 1 (v.at op (.store i :: (is.flatMap wordActions ++ as)) r resp)
        ((storeWord i r v).at op (is.flatMap wordActions ++ as) r resp) :=
      step_one hv.stalled (by simp only [act]; exact goOn_at (s := storeWord i r v) (by simp [has]))
    have h := ih (acc := r) (s := storeWord i r v) has hv.stalled hv.running hv.sel
    cases hc : xferWords is (storeWord i r v) <;> rw [hc] at h
    · obtain ⟨hk, t, ht, h⟩ := h; exact ⟨⟨hk.1, hk.2, hk.3, hk.4⟩, t, ht, hst.trans h⟩
    · obtain ⟨hk, n, hn, a, h⟩ := h; exact ⟨⟨hk.1, hk.2, hk.3, hk.4⟩, 1 + n, by omega, a, hst.trans h⟩
    · obtain ⟨hk, n, hn, h0, h⟩ := h; exact ⟨hk, 1 + n, by omega, by omega, hst.trans h⟩

/-- The fault exit F1 is three steps: select deasserted, the bus released, the record (R79). -/
theorem faultExit_steps {e : TErr} (n : Nat) (hs : s.stalled = false) (hr : s.running = none) (hsel : s.sel = true)
    (hn : ∀ k, (drawResult op k).2 = n) :
    Steps 3 (s.at op [.selDeassert false, .busRelease, .abort e] acc resp)
      (raiseTransportFault e (fun k => (drawResult op k).1) n s) := by
  have h1 : Steps 1 (s.at op [.selDeassert false, .busRelease, .abort e] acc resp)
      (({ s.event .selDeassert with sel := false, device := none } : State).at op [.busRelease, .abort e] acc resp) :=
    step_one hs (by simp [act, goOn, State.at])
  have h2 : Steps 1
      (({ s.event .selDeassert with sel := false, device := none } : State).at op [.busRelease, .abort e] acc resp)
      (({ releaseScope s with device := none } : State).at op [.abort e] acc resp) :=
    step_one hs (by simp [act, goOn, State.at, releaseScope, State.event])
  refine h1.trans (h2.trans (step_one hs ?_))
  simp [act, abortOp, raiseTransportFault, faultExit, hsel, hn, deliverFault, lostFrame, State.at, releaseScope, hr,
    State.event]

/-- `BusConfigure` neither reads nor changes what is in progress. -/
theorem busConfigure_at (todo : List Action) : busConfigure (s.at op todo acc resp) =
    match busConfigure s with
    | .done a v => .done a (v.at op todo acc resp)
    | .fault e v => .fault e (v.at op todo acc resp)
    | .stall v => .stall (v.at op todo acc resp) := by
  unfold busConfigure
  rw [show nextAnswer (s.at op todo acc resp) = nextAnswer s from rfl]
  cases nextAnswer s <;> rfl

/-! ## A frame as a run of steps -/

/-- The run to the end `t` of an operation: in exactly `N` steps unless it ends with a transport fault or hangs. -/
def RunsTo (N : Nat) (u t : State) : Prop :=
  t.running = none ∧ ∃ n, 0 < n ∧ n ≤ N ∧ Steps n u t ∧
    (t.stalled = false → (∀ r, t.response = some r → r.cause ≠ .transportFault) → n = N)

theorem RunsTo.pre {M N : Nat} {u v t : State} (h : Steps M u v) (g : RunsTo N v t) : RunsTo (M + N) u t := by
  obtain ⟨h0, n, h1, h2, h3, h4⟩ := g
  exact ⟨h0, M + n, by omega, by omega, h.trans h3, fun a b => by rw [h4 a b]⟩

/-- A run that ends with a transport fault may be shorter than the whole. -/
theorem RunsTo.fault {N n m : Nat} {u v : State} {e : TErr} {mk : Nat → Result} (hr : v.running = none) (h0 : 0 < n)
    (hn : n ≤ N) (h : Steps n u (raiseTransportFault e mk m v)) : RunsTo N u (raiseTransportFault e mk m v) :=
  ⟨by simpa using hr, n, h0, hn, h, fun _ hc => absurd rfl (hc _ (raise_response _ _ _ _))⟩

/-- One frame inside an operation: its 30 steps follow `frame`, whatever the answers are, and the run goes on behind it
where it completes (R76, R77, R79, R80, R95). `f` loads the transmit Words. -/
theorem frame_runsTo {tx : Frame} {f : Action} {rest : List Action} {X : Resp → State → State} {N : Nat}
    {mk : Nat → Result} {n : Nat} (hf : f = .load tx ∨
      ∃ en d, f = .loadMerged en d ∧ tx = sendFrame .wreg Config.addrCfg (packChop resp.value en d))
    (hrest : rest ≠ []) (hsel : s.sel = false) (hs : s.stalled = false) (hr : s.running = none)
    (hmk : ∀ k, mk k = (drawResult op k).1) (hn : ∀ k, (drawResult op k).2 = n)
    (hX : ∀ r v, frame tx s = .done r v → v.running = none → v.stalled = false → v.sel = false →
      ∀ acc, RunsTo N (v.at op rest acc r) (X r v)) :
    RunsTo (30 + N) (s.at op (frameActions f ++ rest) acc resp) (finish (frame tx s) mk n X) := by
  obtain rfl : mk = fun k => (drawResult op k).1 := funext hmk
  have htodo : frameActions f ++ rest =
      f :: .busConfigure :: .selAssert :: (wordIndices.flatMap wordActions ++ (closeActions ++ rest)) := by
    simp [frameActions]
  rw [htodo]
  generalize hs1 : ({ s with tx := tx, frameNo := s.frameNo + 1 } : State) = s1
  have hframe : frame tx s = (busConfigure s1).bind fun _ u =>
      ((xferWords wordIndices (selAssert u)).bind fun _ s => .done s.rx (closeFrame s)).bind fun rx s =>
        .done (correlate s.pend rx[0]) { s with pend := kindOf tx[0] } := by
    rw [← hs1]
    unfold frame xchg6 openFrame
    simp only [bind_bind, bind_done]
  rw [hframe] at hX ⊢
  have hst1 : s1.stalled = false := by rw [← hs1]; exact hs
  have hr1 : s1.running = none := by rw [← hs1]; exact hr
  have htx1 : s1.tx = tx := by rw [← hs1]
  have hsel1 : s1.sel = false := by rw [← hs1]; exact hsel
  generalize hws : wordIndices.flatMap wordActions ++ (closeActions ++ rest) = ws
  have hne : ws ≠ [] := by rw [← hws]; simp [closeActions]
  have h1 : Steps 1 (s.at op (f :: .busConfigure :: .selAssert :: ws) acc resp)
      (s1.at op (.busConfigure :: .selAssert :: ws) acc resp) := by
    refine step_one hs ?_
    rw [← hs1]
    rcases hf with rfl | ⟨en, d, rfl, rfl⟩ <;> simp [act, goOn, State.at]
  have h2 := step_one (op := op) (acc := acc) (resp := resp) (a := .busConfigure) (as := .selAssert :: ws) hst1 rfl
  simp only [act] at h2
  rw [busConfigure_at] at h2
  rcases busConfigure_cases s1 with h | ⟨e, h⟩ | h <;> rw [h] at h2 hX ⊢ <;> simp only [answered] at h2
  · rw [goOn_at (by simp)] at h2
    simp only [bind_done] at hX ⊢
    generalize hs2 : ({ s1.called.event (.busConfigure s1.sclkHz .msbFirst Config.busMode .ok) with
      busHeld := true } : State) = s2 at h2 hX ⊢
    have hst2 : s2.stalled = false := by rw [← hs2]; exact hst1
    have hr2 : s2.running = none := by rw [← hs2]; exact hr1
    have htx2 : s2.tx = tx := by rw [← hs2]; exact htx1
    have h3 : Steps 1 (s2.at op (.selAssert :: ws) acc resp) ((selAssert s2).at op ws acc resp) :=
      step_one hst2 (by simp only [act]; exact goOn_at (s := selAssert s2) hne)
    rw [show 30 + N = 1 + (1 + (1 + (27 + N))) by omega]
    refine .pre h1 (.pre h2 (.pre h3 ?_))
    have hw := xferWords_follows (op := op) (resp := resp) wordIndices (acc := acc) (s := selAssert s2)
      (as := closeActions ++ rest) (by simp [closeActions]) hst2 hr2 rfl
    rw [hws] at hw
    cases hc : xferWords wordIndices (selAssert s2) with
    | fault e v =>
      rw [hc] at hw
      obtain ⟨hk, m, hm, a, hw⟩ := hw
      have hm : m ≤ 24 := hm
      exact .fault hk.running (by omega) (by omega)
        (hw.trans (faultExit_steps (acc := a) (resp := resp) (e := e) n hk.stalled hk.running hk.sel hn))
    | stall v =>
      rw [hc] at hw
      obtain ⟨hk, m, hm, h0, hw⟩ := hw
      have hm : m ≤ 24 := hm
      exact ⟨hk, m, h0, by omega, hw, by simp⟩
    | done a v =>
      rw [hc] at hw hX
      obtain ⟨hk, t, ⟨acc', rfl⟩, hw⟩ := hw
      simp only [bind_done, finish_done] at hX ⊢
      have e1 : Steps 1 (v.at op (closeActions ++ rest) acc' resp)
          (({ v.event .selDeassert with sel := false, device := v.device.map (deviceAfter v.tx) } : State).at op
            (.busRelease :: .correlate :: rest) acc' resp) :=
        step_one hk.stalled (by simp [act, goOn, State.at])
      have e2 : Steps 1
          (({ v.event .selDeassert with sel := false, device := v.device.map (deviceAfter v.tx) } : State).at op
            (.busRelease :: .correlate :: rest) acc' resp) ((closeFrame v).at op (.correlate :: rest) acc' resp) :=
        step_one hk.stalled (by simp [act, goOn, State.at, closeFrame, releaseScope, State.event])
      have e3 : Steps 1 ((closeFrame v).at op (.correlate :: rest) acc' resp)
          (({ closeFrame v with pend := kindOf tx[0] } : State).at op rest acc'
            (correlate (closeFrame v).pend v.rx[0])) :=
        step_one hk.stalled (by simp [act, goOn, State.at, hrest, hk.tx.trans htx2])
      rw [show 27 + N = 24 + (1 + (1 + (1 + N))) by omega]
      exact .pre hw (.pre e1 (.pre e2 (.pre e3 (hX _ _ rfl hk.running hk.stalled rfl acc'))))
  · rw [goOn_at (by simp)] at h2
    simp only [bind_fault, finish_fault]
    generalize hs2 : s1.called.event (.busConfigure s1.sclkHz .msbFirst Config.busMode (.fault e)) = s2 at h2 ⊢
    have hsel2 : s2.sel = false := by rw [← hs2]; exact hsel1
    have hst2 : s2.stalled = false := by rw [← hs2]; exact hst1
    have hr2 : s2.running = none := by rw [← hs2]; exact hr1
    have h3 : Steps 1 (s2.at op [.abort e] acc resp) (raiseTransportFault e (fun k => (drawResult op k).1) n s2) := by
      refine step_one hst2 ?_
      simp [act, abortOp, raiseTransportFault, faultExit, hsel2, hn, deliverFault, lostFrame, State.at, hr2]
    exact .fault hr2 (by omega) (by omega) (h1.trans (h2.trans h3))
  · simp only [bind_stall, finish_stall]
    refine ⟨hr1, 2, by omega, by omega, h1.trans (n := 1) ?_, by simp⟩
    convert h2 using 1
    simp [hang, State.at, hr1]

end Sim

end Sys2Proof.Machine
end

