-- ==== Sys2Proof/Tests/Slice0.lean ====
section
/-! SUPPORT. Tests. Expected values are the spec's (95_test_vectors.md, named at each test) or worked out by hand from its
encoding tables; the last part shows, for every statement with hypotheses, a state and operands that meet them. -/

namespace Sys2Proof.Machine.Tests

open Sys2Proof Sys2Proof.Machine

/-! ## Helpers -/

/-- A block just reset, its clock rates set. -/
def block : State := { State.reset with sclkHz := 1000000, clkinHz := 8192000 }

/-- The received frame of S2, T2 and P1, with another Word 0. -/
def rxWith (w0 : Word) : Frame := #v[w0, 0x000001, 0xFFFFFF, 0x7FFFFF, 0x800000, 0xABCDEF]

/-- A block whose environment answers with these frames. -/
def answering (l : List Frame) : State := { block with answers := l.flatMap frameAnswers }

/-- These registers 0 to 6 of the reference device, the others 0. -/
def regs (r : List RegVal) : Vector RegVal 32 := Vector.ofFn fun i => (r[i.val]?).getD 0

/-- The inputs of Part 3. -/
def inputs : DeviceInputs := ⟨#v[0x000001, 0xFFFFFF, 0x7FFFFF, 0x800000], 0xABCDEF, 0x050000⟩

/-- The reference device of Part 3 in its initial state. -/
def device (r : List RegVal) : Device := .initial (regs r) inputs []

/-- A block with that device attached. -/
def attached (r : List RegVal) : State := block.attach (regs r) inputs []

/-- A frame held open at the first byte of Word `i`. -/
def openAt (i : Fin 6) (s : State) : State :=
  { s with tx := cmdFrame 0xA28000, seq := ⟨i, 0⟩, sel := true, busHeld := true }

/-- A frame held open, Word `i` received and waiting. -/
def waitingAt (i : Fin 6) (w : Word) (s : State) : State :=
  { s with tx := cmdFrame 0xA28000, seq := Seq.next ⟨i, 2⟩, sel := true, busHeld := true, inWord := some (i, w) }

/-- A field of the next state. -/
def after {α : Type} (o : Host.Outcome State Fault Refusal) (f : State → α) : Option α :=
  match o with
  | .next t => some (f t)
  | .fault _ => none
  | .refused _ => none

/-- The record an instruction leaves. -/
def recordOf (i : Instr) (s : State) : Option (Option Response) := after (exec i s) State.response

/-- Events `n` to `n + k - 1` of the trace after an instruction. -/
def eventsOf (i : Instr) (s : State) (n k : Nat) : Option (List Event) :=
  after (exec i s) fun t => (t.trace.drop n).take k

/-! ## WellFormed refuses what the spec calls illegal (R12, R69, R71) -/

theorem test_wellFormed_refuses_delay_0 : wellFormed (.globalChop true 0) = false := by decide
theorem test_wellFormed_refuses_delay_17 : wellFormed (.globalChop true 17) = false := by decide
theorem test_wellFormed_accepts_delays_1_and_16 :
    wellFormed (.globalChop true 1) = true ∧ wellFormed (.globalChop false 16) = true := by decide

/-! ## Decoding, every constructor, words written out from the encoding tables -/

theorem test_decode_null : decodeAt (.tx 0 0) [0x00, 0x00, 0x00] = .ok (.null, []) := by decide
theorem test_decode_rreg : decodeAt (.tx 0 0xAF8000) [0xAF, 0x80, 0x00] = .ok (.rreg 0x1F, []) := by decide
theorem test_decode_wreg : decodeAt (.tx 0 0x628000) [0x62, 0x80, 0x00] = .ok (.wreg 0x05, []) := by decide
theorem test_decode_wdata : decodeAt (.tx 1 0x628000) [0x80, 0x01, 0x00] = .ok (.wdata 0x8001, []) := by decide
theorem test_decode_wack : decodeAt (.rx 0 .wreg) [0x48, 0x00, 0x00] = .ok (.wack 0x10, []) := by decide
theorem test_decode_rdata : decodeAt (.rx 0 .rreg) [0x00, 0xAA, 0xFF] = .ok (.rdata 0x00AA 0xFF, []) := by decide
theorem test_decode_status : decodeAt (.rx 0 .none) [0x05, 0x00, 0x00] = .ok (.status 0x050000, []) := by decide
theorem test_decode_chdata : decodeAt (.rx 4 .rreg) [0x80, 0x00, 0x00] = .ok (.chdata 0x800000, []) := by decide
theorem test_decode_crc : decodeAt (.rx 5 .none) [0xAB, 0xCD, 0xEF] = .ok (.crc 0xABCDEF, []) := by decide
theorem test_decode_xchgFrame :
    decodeAt .request [0x00, 0x62, 0x80, 0x00] = .ok (.xchgFrame 0x628000, []) := by decide
theorem test_decode_sendCommand :
    decodeAt .request [0x01, 0x01, 0x02, 0x12, 0x34] = .ok (.sendCommand .wreg 0x02 0x1234, []) := by decide
theorem test_decode_fetchResponse : decodeAt .request [0x02, 0x02] = .ok (.fetchResponse, [0x02]) := by decide
theorem test_decode_readChannels :
    decodeAt .request [0x03, 0x82, 0x80, 0x82, 0x00] = .ok (.readChannels [2, 0, 2], []) := by decide
theorem test_decode_readChannelSingle : decodeAt .request [0x04, 0x03] = .ok (.readChannelSingle 3, []) := by decide
theorem test_decode_readReg : decodeAt .request [0x05, 0x1F] = .ok (.readReg 0x1F, []) := by decide
theorem test_decode_writeReg :
    decodeAt .request [0x06, 0x05, 0x00, 0xAA] = .ok (.writeReg 0x05 0x00AA, []) := by decide
theorem test_decode_setGain :
    decodeAt .request [0x07, 0x01, 0x02, 0x03, 0x00] = .ok (.setGain 1 2 3 0, []) := by decide
theorem test_decode_globalChop : decodeAt .request [0x08, 0x01, 0x10] = .ok (.globalChop true 16, []) := by decide
theorem test_decode_setSclk :
    decodeAt .request [0x09, 0x00, 0x3D, 0x09, 0x00] = .ok (.setSclk 4000000, []) := by decide
theorem test_decode_setClkin :
    decodeAt .request [0x0A, 0x00, 0x7D, 0x00, 0x00] = .ok (.setClkin 8192000, []) := by decide

theorem test_decode_rejects :
    decodeAt .request [0x0B] = .error .reservedOpsel ∧ decodeAt .request [0x05, 0x20] = .error .addrOutOfRange ∧
    decodeAt .request [0x04, 0x04] = .error .chanOutOfRange ∧ decodeAt .request [0x03, 0x84] = .error .chanOutOfRange ∧
    decodeAt .request [0x07, 0x10, 0, 0, 0] = .error .gainOutOfRange ∧ decodeAt .request [0x05] = .error .truncated ∧
    decodeAt .request [] = .error .empty ∧ decodeAt (.tx 0 0xA28001) [0xA2, 0x80, 0x01] = .error .notACommand := by
  decide

/-! ## The pure functions -/

/-- 95_test_vectors.md 2.2. -/
theorem test_kindOf : kindOf 0xA28001 = ⟨.other, 0⟩ ∧ kindOf 0xA28100 = ⟨.other, 0⟩ ∧ kindOf 0x428000 = ⟨.other, 0⟩ ∧
    kindOf 0x6F8000 = ⟨.wreg, 31⟩ := by decide

/-- 95_test_vectors.md 2.2. -/
theorem test_correlate : correlate ⟨.rreg, 0⟩ 0x400000 = ⟨.rreg, 0, 0x400000, 0x4000, true⟩ ∧
    correlate ⟨.wreg, 4⟩ 0x428000 = ⟨.wreg, 4, 0x428000, 0x4280, false⟩ := by decide

/-- 95_test_vectors.md 2.3. -/
theorem test_decode24 : (decode24 0xFEDCBA).toInt = -74566 ∧ (decode24 0x800000).toInt = -8388608 := by decide

/-- 95_test_vectors.md 2.3. -/
theorem test_decode32 : (decode32 0xFFFFFE80).toInt = -1 ∧ (decode32 0xFFFFFE80 .floor).toInt = -2 ∧
    (decode32 0xFFFFFF01).toInt = 0 := by decide

/-- 95_test_vectors.md 2.4 and 2.5. -/
theorem test_packings : packGain 2 4 1 3 = 0x3142 ∧ packChop 0xABCD true 9 = 0x8BCD ∧ packChop 0xFFFF false 1 = 0x0EFF := by
  decide

/-! ## The meanings -/

/-- P7, request 5: the tag, the value and the acknowledgement of a correlated frame. -/
theorem test_xchgFrame : recordOf (.xchgFrame 0) { answering [rxWith 0x428000] with pend := ⟨.wreg, 5⟩ } =
    some (some ⟨.none, none, .frame (rxWith 0x428000) ⟨.wreg, 5, 0x428000, 0x4280, true⟩⟩) := by decide

/-- 2.7, frame 3: the Words sent and `PEND` after. -/
theorem test_sendCommand : after (exec (.sendCommand .wreg 2 0x1234) (answering [rxWith 0x050000]))
    (fun t => (t.tx, t.pend)) = some (#v[0x610000, 0x123400, 0, 0, 0, 0], ⟨.wreg, 2⟩) := by decide

/-- P4, request 3. -/
theorem test_fetchResponse : recordOf .fetchResponse (answering [rxWith 0x050000]) =
    some (some ⟨.none, none, .resp ⟨.none, 0, 0x050000, 0x0500, false⟩⟩) := by decide

/-- P2. -/
theorem test_readChannels : recordOf (.readChannels [2, 0, 2]) (answering [rxWith 0x050000]) =
    some (some ⟨.none, none, .samples [8388607, 1, 8388607]⟩) := by decide

/-- S3: no channel asked, one frame of 18 bytes. -/
theorem test_readChannels_none : after (exec (.readChannels []) (answering [rxWith 0x050000]))
    (fun t => (t.response, t.trace.length)) = some (some ⟨.none, none, .samples []⟩, 22) := by decide

/-- S2. -/
theorem test_readChannelSingle : recordOf (.readChannelSingle 3) (answering [rxWith 0x050000]) =
    some (some ⟨.none, none, .sample (-8388608)⟩) := by decide

/-- P1, request 2. -/
theorem test_readReg : recordOf (.readReg 5) (answering [rxWith 0x050000, rxWith 0x00AAFF]) =
    some (some ⟨.none, none, .value 0x00AA⟩) := by decide

/-- P1, request 2: the bytes of the command. -/
theorem test_readReg_bytes : eventsOf (.readReg 5) (answering [rxWith 0x050000, rxWith 0x00AA00]) 2 3 =
    some [.xferByte 0xA2 (.byte 0x05), .xferByte 0x80 (.byte 0x00), .xferByte 0x00 (.byte 0x00)] := by decide

/-- S7. -/
theorem test_writeReg_acknowledged : recordOf (.writeReg 5 0x00AA) (answering [rxWith 0, rxWith 0x428000]) =
    some (some ⟨.none, none, .success true⟩) := by decide

/-- S7, bit 14 of the acknowledgement flipped. -/
theorem test_writeReg_mismatch : recordOf (.writeReg 5 0x00AA) (answering [rxWith 0, rxWith 0x42C000]) =
    some (some ⟨.ackMismatch, none, .success false⟩) := by decide

/-- P6: the payload bytes of the first frame. -/
theorem test_setGain_bytes : eventsOf (.setGain 1 2 3 0) (answering [rxWith 0, rxWith 0]) 5 3 =
    some [.xferByte 0x03 (.byte 0x00), .xferByte 0x21 (.byte 0x00), .xferByte 0x00 (.byte 0x01)] := by rfl

set_option maxRecDepth 8000 in
/-- P3: the payload bytes of the third frame. -/
theorem test_globalChop_bytes :
    eventsOf (.globalChop true 4) (answering [rxWith 0, rxWith 0x065A00, rxWith 0, rxWith 0]) 49 3 =
    some [.xferByte 0x37 (.byte 0x00), .xferByte 0x5A (.byte 0x00), .xferByte 0x00 (.byte 0x01)] := by decide

/-- 2.8. -/
theorem test_globalChop_refused : exec (.globalChop true 17) block = .refused .delayOutOfRange := rfl

/-- 2.8: the register, no wire event, no rejection. -/
theorem test_setSclk : after (exec (.setSclk 0xFFFFFFFF) block) (fun t => (t.sclkHz, t.trace)) =
    some (0xFFFFFFFF, []) := by decide

/-- 2.8. -/
theorem test_setClkin : after (exec (.setClkin 0) block) (fun t => (t.clkinHz, t.sclkHz)) = some (0, 1000000) := by
  decide

/-- T1: three bytes out and the Word in. -/
theorem test_rreg : after (exec (.rreg 5) { openAt 0 block with answers := [.byte 0x12, .byte 0x34, .byte 0x56] })
    (fun t => (t.inWord, t.trace)) =
    some (some (0, 0x123456),
      [.xferByte 0xA2 (.byte 0x12), .xferByte 0x80 (.byte 0x34), .xferByte 0x00 (.byte 0x56)]) := by decide

/-- T2, Word 1. -/
theorem test_wdata : after (exec (.wdata 0x00AA) { openAt 1 block with answers := [.byte 0, .byte 0, .byte 1] })
    (fun t => (t.inWord, t.seq, t.trace)) =
    some (some (1, 0x000001), ⟨2, 0⟩,
      [.xferByte 0x00 (.byte 0), .xferByte 0xAA (.byte 0), .xferByte 0x00 (.byte 1)]) := by decide

/-- T5: a transmitted Word opens a frame; the third byte never returns. -/
theorem test_wreg_stall : after (exec (.wreg 5) { block with answers := [.ok, .byte 0, .byte 0, .stall] })
    (fun t => (t.stalled, t.sel, t.busHeld, t.seq)) = some (true, true, true, ⟨0, 2⟩) := by decide

/-- T3: the bus is not claimed. -/
theorem test_null_unclaimed : after (exec .null { block with answers := [.fault 7] })
    (fun t => (t.sel, t.busHeld, t.trace.length, t.pend)) = some (false, false, 1, ⟨.none, 0⟩) := by decide

/-- 2.2: a received acknowledgement, correlated. -/
theorem test_wack : after (exec (.wack 5) { waitingAt 0 0x428000 block with pend := ⟨.wreg, 5⟩ })
    (fun t => (t.rx[0], t.reading)) =
    some (0x428000, some (.resp ⟨.wreg, 5, 0x428000, 0x4280, true⟩)) := by decide

/-- 2.2: a read response, its third byte ignored. -/
theorem test_rdata : after (exec (.rdata 0x00AA 0xFF) { waitingAt 0 0x00AAFF block with pend := ⟨.rreg, 5⟩ })
    State.reading = some (some (.resp ⟨.rreg, 5, 0x00AAFF, 0x00AA, false⟩)) := by decide

/-- 2.2: a status Word answers no command. -/
theorem test_status : after (exec (.status 0x050000) (waitingAt 0 0x050000 block)) State.reading =
    some (some (.resp ⟨.none, 0, 0x050000, 0x0500, false⟩)) := by decide

/-- 2.3: a channel Word. -/
theorem test_chdata : after (exec (.chdata 0x800001) (waitingAt 4 0x800001 block)) State.reading =
    some (some (.sample (-8388607))) := by decide

/-- T2, the end of the frame. -/
theorem test_crc : after (exec (.crc 0xABCDEF) (waitingAt 5 0xABCDEF block))
    (fun t => (t.rx[5], t.sel, t.busHeld, t.pend, t.trace)) =
    some (0xABCDEF, false, false, ⟨.rreg, 5⟩, [.selDeassert, .busRelease]) := by decide

/-- T4: a fault at the 8th byte. -/
theorem test_fault_at_byte_7 :
    after (exec (.readChannels [0]) { block with answers := cutAnswers (rxWith 0x050000) 7 (.fault 9) })
      (fun t => (t.seq, t.trace.length, t.sel, t.response.map (·.terr))) =
    some (⟨2, 1⟩, 12, false, some (some 9)) := by decide

/-- R124, and the start of P1: nothing latched, register 5 as stated, so the first Word 0 is the status Word. -/
theorem test_device_initial : (attached [0, 0, 0, 0, 0, 0x1234]).device.map
    (fun d => (d.pend, memRead d 5, deviceWord0 d)) = some (⟨.none, 0⟩, 0x1234, 0x050000) := by decide

/-- P1 against the reference device. -/
theorem test_device_write : after (exec (.writeReg 5 0x00AA) (attached [0, 0, 0, 0, 0, 0x1234]))
    (fun t => (t.response, t.device.map fun d => memRead d 5)) =
    some (some ⟨.none, none, .success true⟩, some 0x00AA) := by decide

/-! ## The fixed names: the row's bits decode, and the placed row is what the next step runs -/

theorem test_tableWord_setSclk : decodeTableWord 8 0x09 = some (.setSclk 0) := by decide
theorem test_tableWord_rreg : decodeTableWord 24 0xA28000 = some (.rreg 5) := by decide

theorem test_withFetchWord_runs_the_row :
    step (block.withFetchWord 24 0xA28000) = exec (.rreg 5) (block.withFetchWord 24 0xA28000) ∧
    after (step (block.withFetchWord 8 0x09)) State.sclkHz = some 0 := by
  constructor
  · rfl
  · decide

/-! ## Witnesses: each statement with hypotheses has a state and operands that meet them together -/

/-- A block with one request. -/
def asked (i : Instr) : State := { block with requests := encode i }

/-- The same block at the grain `operation` (log 2). -/
def whole (s : State) : State := { s with grain := .operation }

/-- A state between two primitives: the bus claimed for the null frame of `FETCH_RESPONSE`, `SelAssert` to come (R8, R77). -/
def claimed : State :=
  { block with
    busHeld := true, frameNo := 1, calls := 1, trace := [.busConfigure 1000000 .msbFirst Config.busMode .ok],
    running := some ⟨.fetchResponse, (actions .fetchResponse).drop 2, nullWord, correlate ⟨.none, 0⟩ nullWord⟩ }

/-- R8, R77: a request at the grain of reset is accepted; its frame is loaded, the bus claimed, then select asserted, a
step each; nothing else happens on the wire. -/
theorem test_steps_of_a_frame :
    after (stepN 1 { asked .fetchResponse with answers := [.ok] })
      (fun t => (t.busHeld, t.sel, t.trace.length, t.running.isSome)) = some (false, false, 0, true) ∧
    after (stepN 3 { asked .fetchResponse with answers := [.ok] }) (fun t => (t.busHeld, t.sel, t.trace.length)) =
      some (true, false, 1) ∧
    stepN 3 { asked .fetchResponse with answers := [.ok] } = .next claimed ∧
    after (stepN 4 { asked .fetchResponse with answers := [.ok] }) (fun t => (t.busHeld, t.sel, t.trace.length)) =
      some (true, true, 2) := by
  refine ⟨by decide, by decide, rfl, by decide⟩

/-- R8: between two primitives nothing else is accepted. -/
theorem test_no_operation_between_primitives :
    exec .fetchResponse claimed = .refused .operationInProgress ∧
    issue (.setSclk 7) claimed = .refused .operationInProgress ∧ exec .null claimed = .refused .operationInProgress := by
  refine ⟨rfl, rfl, rfl⟩

/-- R80: a primitive that never returns ends the steps; what it leaves of the operation is no step to come. -/
theorem test_stall_of_a_step :
    after (step (.at .fetchResponse [.xferByte 0 0, .deliver] 0 (correlate ⟨.none, 0⟩ 0)
      { claimed with answers := [.stall] }))
    (fun t => (t.stalled, t.running, t.response)) = some (true, none, none) := by decide

/-- R79: after a fault at a byte, select is deasserted and the bus released, a step each, before the record. -/
theorem test_fault_of_a_step :
    after (step (.at .fetchResponse [.xferByte 0 0, .deliver] 0 (correlate ⟨.none, 0⟩ 0)
      { claimed with answers := [.fault 9], sel := true }))
    (fun t => (t.sel, t.busHeld, t.response, t.running.map Running.todo)) =
    some (true, true, none, some [.selDeassert false, .busRelease, .abort 9]) := by decide

/-- The invariant of a quiescent block that has made no wire event. -/
theorem blockInv_of_fresh {s : State} (h1 : Quiescent s) (h2 : s.trace = []) (h3 : s.pend = ⟨.none, 0⟩)
    (h4 : s.response = none) : BlockInv s := by
  obtain ⟨a, b, c, d, e⟩ := h1
  constructor <;> simp [phaseOf, scan, a, b, c, d, e, h2, h3, h4]

/-- The invariant between two primitives. -/
theorem blockInv_claimed : BlockInv claimed := by
  constructor
  · intro h; cases h
  · rintro _ ⟨⟩
    exact ⟨rfl, ⟨.held, rfl, ⟨rfl, rfl⟩, rfl⟩, by simp [claimed, block, State.reset]⟩
  all_goals simp [claimed, block, State.reset]

/-- At both grains, and between two primitives. -/
theorem witness_EveryStepKeepsTheInvariant :
    (BlockInv (whole (asked (.setSclk 4000000))) ∧
      ∃ t, step (whole (asked (.setSclk 4000000))) = .next t ∧ t.sclkHz = 4000000) ∧
    (BlockInv (asked (.setSclk 4000000)) ∧
      ∃ t, step (asked (.setSclk 4000000)) = .next t ∧ t.running.isSome = true) ∧
    BlockInv claimed ∧ ∃ t, step claimed = .next t ∧ t.sel = true :=
  ⟨⟨blockInv_of_fresh ⟨rfl, rfl, rfl, rfl, rfl⟩ rfl rfl rfl, _, rfl, rfl⟩,
    ⟨blockInv_of_fresh ⟨rfl, rfl, rfl, rfl, rfl⟩ rfl rfl rfl, _, rfl, rfl⟩, blockInv_claimed, _, rfl, rfl⟩

theorem witness_StepRunsTheDecodedInstruction_request :
    (asked (.readReg 31)).stalled = false ∧ (asked (.readReg 31)).running = none ∧
    (asked (.readReg 31)).inWord = none ∧ (asked (.readReg 31)).sel = false ∧
    decodeRequest (asked (.readReg 31)).requests = .ok (.readReg 31, []) ∧
    (asked (.readReg 31)).grain = .primitive ∧ (whole (asked (.readReg 31))).grain = .operation := by decide

theorem witness_StepRunsTheDecodedInstruction_txRow :
    (openAt 0 block).stalled = false ∧ (openAt 0 block).running = none ∧ (openAt 0 block).inWord = none ∧
    (openAt 0 block).sel = true ∧
    decodeTx (openAt 0 block).seq.w (openAt 0 block).tx[0] (openAt 0 block).tx[(openAt 0 block).seq.w] =
      some (.rreg 5) ∧
    (openAt 0 block).grain = .primitive ∧ (whole (openAt 0 block)).grain = .operation := by decide

theorem witness_StepRunsTheDecodedInstruction_running :
    claimed.stalled = false ∧ ∃ r a as, claimed.running = some r ∧ r.todo = a :: as :=
  ⟨rfl, _, _, _, rfl, rfl⟩

/-- One instruction of each kind that `exec` runs, and one that it refuses. -/
theorem witness_PrimitiveStepsMakeTheOperation :
    (∃ t, exec (.readReg 5) (answering [rxWith 0, rxWith 7]) = .next t ∧ isHostOp (.readReg 5) = true ∧
      t.stalled = false ∧ ∀ r, t.response = some r → r.cause ≠ .transportFault) ∧
    (∃ t, exec (.rreg 5) { block with answers := .ok :: wordAnswers 7 } = .next t) ∧
    (∃ t, exec (.crc 7) (waitingAt 5 7 block) = .next t) ∧
    exec .fetchResponse claimed = .refused .operationInProgress := by
  refine ⟨⟨_, rfl, rfl, rfl, ?_⟩, ⟨_, rfl⟩, ⟨_, rfl⟩, rfl⟩
  rintro _ ⟨⟩; decide

/-- The transmit Words of a frame whose Word 5 is no row of the table. -/
def oddFrame : State := { openAt 5 block with tx := #v[0, 0, 0, 0, 0, 1] }

theorem witness_StepRunsTheDecodedInstruction_otherWord :
    oddFrame.stalled = false ∧ oddFrame.running = none ∧ oddFrame.inWord = none ∧ oddFrame.sel = true ∧
    decodeTx oddFrame.seq.w oddFrame.tx[0] oddFrame.tx[oddFrame.seq.w] = none ∧
    oddFrame.grain = .primitive ∧ (whole oddFrame).grain = .operation := by decide

theorem witness_StepRunsTheDecodedInstruction_rxRow :
    (waitingAt 5 1 block).stalled = false ∧ (waitingAt 5 1 block).running = none ∧
    (waitingAt 5 1 block).inWord = some (5, 1) ∧ (waitingAt 0 1 block).inWord = some (0, 1) ∧
    (waitingAt 0 1 block).grain = .primitive ∧ (whole (waitingAt 0 1 block)).grain = .operation := by decide

theorem witness_StepWaitsWithoutRequestAndHangsAfterStall :
    (block.stalled = false ∧ block.running = none ∧ block.inWord = none ∧ block.sel = false ∧ block.requests = []) ∧
    ({ block with stalled := true } : State).stalled = true := by decide

theorem witness_ReservedSelectorIsRefused :
    ({ block with requests := [0x0B] } : State).requests = 0x0B :: [] ∧ 0x0B ≤ (0x0B : Byte).toNat ∧
    ({ block with requests := [0xFF] } : State).requests = 0xFF :: [] ∧ 0x0B ≤ (0xFF : Byte).toNat ∧
    block.stalled = false ∧ block.running = none ∧ block.inWord = none ∧ block.sel = false := by decide

theorem witness_HostOperationIsRefusedWhileOneIsInProgress :
    isHostOp (.globalChop true 16) = true ∧ wellFormed (.globalChop true 16) = true ∧
    (openAt 0 block).busy = true ∧ claimed.busy = true := by decide

theorem witness_ResetEventOnlyBetweenOperations :
    block.busy = false ∧ (openAt 0 block).busy = true ∧ claimed.busy = true := by decide

theorem witness_DecodeOfEncodeIsTheInstruction :
    fits (.tx 5 0x628000) .null = true ∧ fits (.tx 0 0) (.rreg 31) = true ∧ fits (.tx 0 0) (.wreg 0) = true ∧
    fits (.tx 1 0x628000) (.wdata 0xFFFF) = true ∧ fits (.rx 0 .wreg) (.wack 31) = true ∧
    fits (.rx 0 .rreg) (.rdata 0 0xFF) = true ∧ fits (.rx 0 .wreg) (.status 0x628000) = true ∧
    fits (.rx 4 .none) (.chdata 0) = true ∧ fits (.rx 5 .other) (.crc 0) = true ∧
    fits .request (.readChannels [3, 3]) = true := by decide

theorem witness_DecodedBytesAreTheEncoding :
    decodeAt .request [0x02, 0x02] = .ok (.fetchResponse, [0x02]) ∧
    decodeAt (.rx 0 .wreg) [0x62, 0x80, 0x00] = .ok (.status 0x628000, []) := by decide

theorem witness_WordsTravelMostSignificantByteFirst :
    ({ block with answers := [.byte 1, .byte 2, .byte 3] ++ [] } : State).answers = [.byte 1, .byte 2, .byte 3] ++ [] :=
  rfl

theorem witness_DecodeTwentyFourIsTwosComplement : decode24 0x800000 = decode24 0x800000 := rfl

/-- Both ends of the range. -/
theorem witness_DecodeTwentyFourIsAdditiveInRange :
    (decode24 0x7FFFFE).toInt + (decode24 0x000001).toInt = 8388607 ∧
    (decode24 0x800001).toInt + (decode24 0xFFFFFF).toInt = -8388608 := by decide

theorem witness_ContainerDecodeIsExactOnZeroPadding :
    (0x80000000 : Container).extractLsb' 0 8 = 0 ∧ (0x7FFFFF00 : Container).extractLsb' 0 8 = 0 := by decide

theorem witness_ChopPackingReplacesOnlyItsFields :
    legalDelay 1 = true ∧ legalDelay 16 = true ∧ (0xF75A : RegVal) &&& 0x0EFF = 0x065A &&& 0x0EFF := by decide

/-- One frame: `XCHG_FRAME`, `SEND_COMMAND`, `FETCH_RESPONSE`, the sampling operations. -/
theorem witness_oneFrame : (answering [rxWith 7]).busy = false ∧
    (answering [rxWith 7]).answers = frameAnswers (rxWith 7) ++ [] := by decide

/-- Two frames: `READ_REG`, `WRITE_REG`, `SET_GAIN`. -/
theorem witness_twoFrames : (answering [rxWith 7, rxWith 8]).busy = false ∧
    (answering [rxWith 7, rxWith 8]).answers = frameAnswers (rxWith 7) ++ (frameAnswers (rxWith 8) ++ []) := by decide

set_option maxRecDepth 4000 in
/-- Four frames: `GLOBAL_CHOP`, at both ends of the legal delays. -/
theorem witness_GlobalChopWritesBackTheMergedValue : legalDelay 1 = true ∧ legalDelay 16 = true ∧
    (answering [rxWith 7, rxWith 8, rxWith 9, rxWith 10]).busy = false ∧
    (answering [rxWith 7, rxWith 8, rxWith 9, rxWith 10]).answers =
      frameAnswers (rxWith 7) ++ (frameAnswers (rxWith 8) ++ (frameAnswers (rxWith 9) ++
        (frameAnswers (rxWith 10) ++ []))) := by decide

theorem witness_GlobalChopRefusesAnIllegalDelay : (0 : BitVec 5).toNat = 0 ∧ 16 < (17 : BitVec 5).toNat := by decide

theorem witness_SetSclkSetsTheRateOfLaterFrames : block.busy = false ∧
    ∃ t u, exec (.setSclk 4000000) (answering [rxWith 7]) = .next t ∧ exec (.xchgFrame 0) t = .next u :=
  ⟨rfl, _, _, rfl, rfl⟩

theorem witness_TransmittedWordIsSentInAnOpenFrame (j : Fin 6) :
    let s := { openAt j block with answers := wordAnswers 7 ++ [] }
    txRow (.wdata 0xFFFF) = some 0xFFFF00 ∧ txRow .null = some 0 ∧ txRow (.rreg 31) = some 0xAF8000 ∧
    txRow (.wreg 31) = some 0x6F8000 ∧ s.stalled = false ∧ s.running = none ∧ s.inWord = none ∧ s.sel = true ∧ s.seq = ⟨j, 0⟩ ∧
    s.answers = wordAnswers 7 ++ [] := by
  refine ⟨by decide, by decide, by decide, by decide, rfl, rfl, rfl, rfl, rfl, rfl⟩

/-- A frame opened by a Word carries no Word of the frame before it: behind `RREG`, Word 1 is a null filler (R14, R53). -/
theorem test_new_frame_loads_all_words :
    ∃ t, exec (.rreg 5) { block with tx := sendFrame .wreg 5 0xFFFF, answers := .ok :: wordAnswers 7 } = .next t ∧
      t.tx = cmdFrame 0xA28000 := ⟨_, rfl, rfl⟩

theorem witness_TransmittedWordOpensAFrame :
    let s := { block with answers := .ok :: (wordAnswers 7 ++ []) }
    txRow .null = some 0 ∧ s.busy = false ∧ s.answers = .ok :: (wordAnswers 7 ++ []) := by decide

theorem witness_ReceivedWordIsStoredAndRead :
    rxRow (.wack 31) = some 0x4F8000 ∧ rxRow (.rdata 0xFFFF 0xFF) = some 0xFFFFFF ∧ rxRow (.status 7) = some 7 ∧
    rxRow (.chdata 7) = some 7 ∧ rxRow (.crc 7) = some 7 ∧ (waitingAt 0 7 block).stalled = false ∧
    (waitingAt 0 7 block).running = none ∧ (waitingAt 0 7 block).inWord = some (0, 7) ∧ (0 : Fin 6) ≠ 5 ∧
    (waitingAt 4 7 block).inWord = some (4, 7) ∧ (4 : Fin 6) ≠ 5 := by decide

theorem witness_ReceivedWordFiveEndsTheFrame : rxRow (.crc 7) = some 7 ∧ (waitingAt 5 7 block).stalled = false ∧
    (waitingAt 5 7 block).running = none ∧ (waitingAt 5 7 block).inWord = some (5, 7) := by decide

theorem witness_WordsOutOfTurnAreRefused :
    (rxRow (.crc 7) = some 7 ∧ block.stalled = false ∧ block.running = none ∧ block.inWord = none) ∧
    (txRow .null = some 0 ∧ (waitingAt 3 7 block).stalled = false ∧ (waitingAt 3 7 block).running = none ∧
      (waitingAt 3 7 block).inWord.isSome = true) := by
  decide

theorem witness_TwelveWordStepsMakeOneFrame :
    let s := whole (answering [rxWith 0x050000])
    s.busy = false ∧ s.grain = .operation ∧ s.requests = [] ∧ txRow (.rreg 5) = some 0xA28000 ∧
    (∃ s1, openFrame { beginOp s with tx := cmdFrame 0xA28000 } = .done () s1) ∧
    ∃ t, exec (.xchgFrame 0xA28000) s = .next t ∧ t.stalled = false :=
  ⟨rfl, rfl, rfl, rfl, ⟨_, rfl⟩, _, rfl, rfl⟩

/-- The same with a fault at byte 17. -/
theorem witness_TwelveWordStepsMakeOneFrame_fault :
    let s := whole { block with answers := cutAnswers (rxWith 7) 17 (.fault 9) }
    s.busy = false ∧ s.grain = .operation ∧ s.requests = [] ∧ txRow (.rreg 5) = some 0xA28000 ∧
    (∃ s1, openFrame { beginOp s with tx := cmdFrame 0xA28000 } = .done () s1) ∧
    ∃ t, exec (.xchgFrame 0xA28000) s = .next t ∧ t.stalled = false :=
  ⟨rfl, rfl, rfl, rfl, ⟨_, rfl⟩, _, rfl, rfl⟩

theorem witness_BusConfigureFaultEndsTheOperation :
    let s := { block with answers := .fault 9 :: [] }
    wellFormed (.readReg 31) = true ∧ 0 < framesOf (.readReg 31) ∧ Quiescent s ∧ s.answers = .fault 9 :: [] := by
  decide

theorem witness_ByteFaultEndsTheOperation (k : Fin 18) :
    let s := { block with answers := cutAnswers (rxWith 7) k (.fault 9) ++ [] }
    wellFormed (.globalChop false 16) = true ∧ 0 < framesOf (.globalChop false 16) ∧ Quiescent s ∧
    s.answers = cutAnswers (rxWith 7) k (.fault 9) ++ [] :=
  ⟨by decide, by decide, ⟨rfl, rfl, rfl, rfl, rfl⟩, rfl⟩

/-- The premises of `SecondFrameFaultMakesNoFurtherFrame` (with `a` a fault) and of
`SecondFrameStallLeavesTheScopeAsItWas` (with `a` a stall), both clauses of each. -/
theorem witness_secondFrame (a : Answer) (k : Fin 18) :
    let s := { block with answers := frameAnswers (rxWith 7) ++ a :: [] }
    let u := { block with answers := frameAnswers (rxWith 7) ++ (cutAnswers (rxWith 8) k a ++ []) }
    wellFormed (.writeReg 5 7) = true ∧ 2 ≤ framesOf (.writeReg 5 7) ∧
    Quiescent s ∧ s.answers = frameAnswers (rxWith 7) ++ a :: [] ∧
    Quiescent u ∧ u.answers = frameAnswers (rxWith 7) ++ (cutAnswers (rxWith 8) k a ++ []) :=
  ⟨by decide, by decide, ⟨rfl, rfl, rfl, rfl, rfl⟩, rfl, ⟨rfl, rfl, rfl, rfl, rfl⟩, rfl⟩

theorem witness_StallLeavesTheScopeAsItWas (k : Fin 18) :
    let s := { block with answers := .stall :: [] }
    let u := { block with answers := cutAnswers (rxWith 7) k .stall ++ [] }
    wellFormed .fetchResponse = true ∧ 0 < framesOf .fetchResponse ∧ Quiescent s ∧ s.answers = .stall :: [] ∧
    Quiescent u ∧ u.answers = cutAnswers (rxWith 7) k .stall ++ [] :=
  ⟨rfl, by decide, ⟨rfl, rfl, rfl, rfl, rfl⟩, rfl, ⟨rfl, rfl, rfl, rfl, rfl⟩, rfl⟩

/-- For `GLOBAL_CHOP`, with its 76 calls. -/
theorem witness_OperationEndsWhenThePrimitivesComplete :
    let s := { block with answers := List.replicate 76 .ok }
    isHostOp (.globalChop true 1) = true ∧ wellFormed (.globalChop true 1) = true ∧ Quiescent s ∧
    goodCalls (19 * framesOf (.globalChop true 1)) s := by
  refine ⟨rfl, rfl, ⟨rfl, rfl, rfl, rfl, rfl⟩, by simp [framesOf], ?_⟩
  intro a ha
  exact .inl (List.eq_of_mem_replicate (List.mem_of_mem_take ha))

theorem witness_CausesComeOnlyFromTheirOperations :
    (∃ t r, exec (.writeReg 5 7) (answering [rxWith 0, rxWith 0]) = .next t ∧ t.response = some r ∧
      r.cause = .ackMismatch) ∧
    (∃ t r, exec (.readReg 5) { block with answers := [.fault 9] } = .next t ∧ t.response = some r ∧
      r.cause = .transportFault) :=
  ⟨⟨_, _, rfl, rfl, by decide⟩, _, _, rfl, rfl, rfl⟩

theorem witness_TheTraceOnlyGrows :
    (∃ t, exec (.crc 7) (waitingAt 5 7 block) = .next t) ∧
    (∃ t, claimed.running.isSome = true ∧ step claimed = .next t ∧ ∃ e, t.trace = claimed.trace ++ [e]) ∧
    ∃ t, (asked .fetchResponse).grain = .primitive ∧ step (asked .fetchResponse) = .next t :=
  ⟨⟨_, rfl⟩, ⟨_, rfl, rfl, _, rfl⟩, _, rfl, rfl⟩

theorem witness_OperationsMakeTheirListedFrames :
    ∃ t r, exec (.readReg 5) (answering [rxWith 0, rxWith 0]) = .next t ∧ t.response = some r ∧
      r.cause ≠ .transportFault :=
  ⟨_, _, rfl, rfl, by decide⟩

theorem witness_ReleasedTracesAreBalanced : scan .idle (frameEvents 1 (rxWith 7) (rxWith 8)) = some .idle := rfl

theorem witness_ClockRatesAreWrittenOnlyByTheirSetters :
    (∃ t, exec (.setClkin 7) block = .next t) ∧ (∀ hz, Instr.setClkin 7 ≠ .setSclk hz) ∧
    (∃ t, exec (.setSclk 7) block = .next t) ∧ ∀ hz, Instr.setSclk 7 ≠ .setClkin hz :=
  ⟨⟨_, rfl⟩, by simp, ⟨_, rfl⟩, by simp⟩

theorem witness_ClkinHasNoEffect : ∀ hz, Instr.xchgFrame 0 ≠ .setClkin hz := by simp

theorem witness_CorrelatorAfterEachOperation :
    (∃ t r, exec (.sendCommand .wreg 31 7) (answering [rxWith 0]) = .next t ∧ t.response = some r ∧ r.cause = .none) ∧
    (∃ t r, exec (.xchgFrame 0x123456) (answering [rxWith 0]) = .next t ∧ t.response = some r ∧ r.cause = .none) ∧
    (∃ t r, exec (.setSclk 7) block = .next t ∧ t.response = some r) ∧
    (∃ t r, isHostOp (.xchgFrame 0) = true ∧ exec (.xchgFrame 0) { block with answers := [.fault 9] } = .next t ∧
      t.response = some r ∧ r.cause = .transportFault) ∧
    ∃ t r, exec (.readChannels []) (answering [rxWith 0]) = .next t ∧ t.response = some r :=
  ⟨⟨_, _, rfl, rfl, rfl⟩, ⟨_, _, rfl, rfl, rfl⟩, ⟨_, _, rfl, rfl⟩, ⟨_, _, rfl, rfl, rfl, rfl⟩, _, _, rfl, rfl⟩

theorem witness_RegisterAccessIsCommandThenFetch (k : CmdKind) :
    ∃ u t r, exec (.sendCommand k 5 0) (answering [rxWith 0, rxWith 0x428000]) = .next u ∧
      u.response = some ⟨.none, none, .none⟩ ∧ exec .fetchResponse u = .next t ∧
      t.response = some ⟨.none, none, .resp r⟩ := by
  cases k
  · exact ⟨_, _, _, rfl, rfl, rfl, rfl⟩
  · exact ⟨_, _, _, rfl, rfl, rfl, rfl⟩

theorem witness_RegisterAccessIsCommandThenFetch_channel :
    ∃ t xs, exec (.readChannels [3]) (answering [rxWith 0]) = .next t ∧ t.response = some ⟨.none, none, .samples xs⟩ :=
  ⟨_, _, rfl, rfl⟩

set_option maxRecDepth 8000 in
theorem witness_DerivedOperationsAreTheirExpansions :
    let s := answering [rxWith 7, rxWith 8, rxWith 9, rxWith 10]
    legalDelay 16 = true ∧
    (∃ u old, exec (.readReg Config.addrCfg) s = .next u ∧ u.response = some ⟨.none, none, .value old⟩ ∧
      ∃ t, exec (.writeReg Config.addrCfg (packChop old true 16)) u = .next t ∧ t.stalled = false) ∧
    (∃ t rx r, exec (.xchgFrame 0x000000) s = .next t ∧ t.response = some ⟨.none, none, .frame rx r⟩) ∧
    ∃ t rx r, exec (.xchgFrame (mkCmd .rreg 31)) s = .next t ∧ t.response = some ⟨.none, none, .frame rx r⟩ :=
  ⟨by decide, ⟨_, _, rfl, rfl, _, rfl, rfl⟩, ⟨_, _, _, rfl, rfl⟩, _, _, _, rfl, rfl⟩

set_option maxRecDepth 8000 in
/-- The clause on `GLOBAL_CHOP` where the write stalls in frame 4. -/
theorem witness_DerivedOperationsAreTheirExpansions_stall :
    let s := { block with answers := [7, 8, 9].flatMap (fun w => frameAnswers (rxWith w)) ++ [.stall] }
    ∃ u old, exec (.readReg Config.addrCfg) s = .next u ∧ u.response = some ⟨.none, none, .value old⟩ ∧
      ∃ t, exec (.writeReg Config.addrCfg (packChop old true 1)) u = .next t ∧ t.stalled = true :=
  ⟨_, _, rfl, rfl, _, rfl, rfl⟩

theorem witness_CrcWordIsNotExamined :
    (wellFormed (.readChannels [3]) = true ∧ (∀ cmd, Instr.readChannels [3] ≠ .xchgFrame cmd) ∧
      ([] : List (Frame × Word)).length + 1 = framesOf (.readChannels [3])) ∧
    (wellFormed (.globalChop true 16) = true ∧ (∀ cmd, Instr.globalChop true 16 ≠ .xchgFrame cmd) ∧
      [(rxWith 7, (1 : Word)), (rxWith 8, 2), (rxWith 9, 3)].length + 1 = framesOf (.globalChop true 16)) ∧
    block.busy = false :=
  ⟨⟨rfl, by simp, rfl⟩, ⟨rfl, by simp, rfl⟩, rfl⟩

theorem witness_InterposedFrameTakesTheResponse :
    let s := answering [rxWith 7, rxWith 8, rxWith 9]
    s.busy = false ∧ s.answers = frameAnswers (rxWith 7) ++ (frameAnswers (rxWith 8) ++ (frameAnswers (rxWith 9) ++ [])) :=
  ⟨rfl, rfl⟩

theorem witness_ReferenceDeviceMeetsTheContract : kindOf (cmdFrame 0x6F8000)[0] = ⟨.wreg, 31⟩ := by decide

/-- The premises of the three statements on the reference device. -/
theorem witness_attached : Quiescent (attached [7]) ∧ (attached [7]).device = some (device [7]) ∧
    (attached [7]).answers = [] ∧ legalDelay 1 = true ∧ legalDelay 16 = true := by
  refine ⟨⟨rfl, rfl, rfl, rfl, rfl⟩, rfl, rfl, by decide, by decide⟩

end Sys2Proof.Machine.Tests
end

section
/-! Settles `HostOperationIsRefusedWhileOneIsInProgress` and `PrimitiveStepsMakeTheOperation`: the steps of R8 follow
the meaning of each host operation frame by frame, and the meaning of each Word of the wire byte by byte. -/

namespace Sys2Proof.Machine

/-! ## Refusal and acceptance -/

/-- A busy machine takes no host operation (R8). -/
theorem hostOp_busy {run : State → State} {s : State} (hb : s.busy = true) :
    hostOp run s = .refused .operationInProgress := if_pos hb

/-- Settles O8: every well-formed host operation is a `hostOp`, which a busy machine refuses. -/
theorem hostOperationIsRefusedWhileOneIsInProgress : Obligations.HostOperationIsRefusedWhileOneIsInProgress := by
  intro i s hi hwf hb
  cases i
  case globalChop en d =>
    have hd : legalDelay d = true := hwf
    simp [exec, execGlobalChop, hd, hostOp_busy hb]
  case null | rreg | wreg | wdata | wack | rdata | status | chdata | crc => cases hi
  all_goals
    rw [exec]
    exact hostOp_busy hb

/-! ## Runs of steps to an end -/

/-- The run to a state in which nothing is in progress, in at least one and at most `N` steps. -/
def Reaches (N : Nat) (u t : State) : Prop :=
  t.running = none ∧ ∃ n, 0 < n ∧ n ≤ N ∧ Steps n u t

theorem Reaches.pre {M N : Nat} {u v t : State} (h : Steps M u v) (g : Reaches N v t) : Reaches (M + N) u t := by
  obtain ⟨h0, n, h1, h2, h3⟩ := g
  exact ⟨h0, M + n, by omega, by omega, h.trans h3⟩

theorem Reaches.mono {M N : Nat} {u t : State} (h : Reaches M u t) (hN : M ≤ N) : Reaches N u t := by
  obtain ⟨h0, n, h1, h2, h3⟩ := h
  exact ⟨h0, n, h1, by omega, h3⟩

theorem RunsTo.reaches {N : Nat} {u t : State} (h : RunsTo N u t) : Reaches N u t := by
  obtain ⟨h0, n, h1, h2, h3, -⟩ := h
  exact ⟨h0, n, h1, h2, h3⟩

/-- Where the whole sequence `a` answers a next state `t`, the instruction is accepted in a state that `R` relates to
`t`; what `a` refuses is not accepted. -/
def Refines (R : State → State → Prop) (a b : Host.Outcome State Fault Refusal) : Prop :=
  (∀ t, a = .next t → ∃ u, b = .next u ∧ R u t) ∧ ∀ r, a = .refused r → b = .refused r

theorem refines_next {R : State → State → Prop} {u t : State} (h : R u t) : Refines R (.next t) (.next u) :=
  ⟨fun _ ht => by cases ht; exact ⟨u, rfl, h⟩, fun _ hr => by cases hr⟩

theorem refines_refused {R : State → State → Prop} (r : Refusal) : Refines R (.refused r) (.refused r) :=
  ⟨fun _ ht => by (cases ht), fun _ hr => hr⟩

/-! ## The host operations -/

/-- The end of two functions, one after the other, is the end of the first with the end of the second behind it. -/
theorem finish_bind {α β : Type} (r : Reply α) (f : α → State → Reply β) (mk : Nat → Result) (n : Nat)
    (k : β → State → State) : finish (r.bind f) mk n k = finish r mk n fun a s => finish (f a s) mk n k := by
  cases r <;> rfl

section HostOperations
variable {op : Instr} {acc : Word} {resp : Resp} {s : State} {mk : Nat → Result} {n : Nat}

/-- The record is one step (R12). -/
theorem deliver_runsTo {r : Resp} (hs : s.stalled = false) (hr : s.running = none) :
    RunsTo 1 (s.at op [.deliver] acc r) (endOp op r s) := by
  have h : Steps 1 (s.at op [.deliver] acc r) (endOp op r { s.at op [.deliver] acc r with running := none }) :=
    step_one hs rfl
  have hv : ({ s.at op [.deliver] acc r with running := none } : State) = s := by simp [State.at, ← hr]
  rw [hv] at h
  exact ⟨by rw [endOp_running, hr], 1, by omega, le_refl _, h, fun _ _ => rfl⟩

/-- The last frame of an operation and its record (R95, R12). -/
theorem lastFrame_runsTo {tx : Frame} {f : Action} (hf : f = .load tx ∨
      ∃ en d, f = .loadMerged en d ∧ tx = sendFrame .wreg Config.addrCfg (packChop resp.value en d))
    (hsel : s.sel = false) (hs : s.stalled = false) (hr : s.running = none)
    (hmk : ∀ k, mk k = (drawResult op k).1) (hn : ∀ k, (drawResult op k).2 = n) :
    RunsTo 31 (s.at op (frameActions f ++ [.deliver]) acc resp) (finish (frame tx s) mk n fun r v => endOp op r v) :=
  frame_runsTo (N := 1) hf (by simp) hsel hs hr hmk hn fun _ _ _ hr hs _ _ => deliver_runsTo hs hr

/-- A command frame, the null frame that fetches its response, and the record (R98, R99). -/
theorem lastTwoFrames_runsTo {tx : Frame} {f : Action} (hf : f = .load tx ∨
      ∃ en d, f = .loadMerged en d ∧ tx = sendFrame .wreg Config.addrCfg (packChop resp.value en d))
    (hsel : s.sel = false) (hs : s.stalled = false) (hr : s.running = none)
    (hmk : ∀ k, mk k = (drawResult op k).1) (hn : ∀ k, (drawResult op k).2 = n) :
    RunsTo 61 (s.at op (frameActions f ++ (fetchActions ++ [.deliver])) acc resp)
      (finish (frame tx s) mk n fun _ v => finish (fetchFrame v) mk n fun r v => endOp op r v) :=
  frame_runsTo (N := 31) hf (by simp [fetchActions, sendActions, frameActions]) hsel hs hr hmk hn
    fun _ _ _ hr hs hsel _ => lastFrame_runsTo (.inl rfl) hsel hs hr hmk hn

/-- The four frames of `GLOBAL_CHOP` and its record: the third loads the value that the second read (R108). -/
theorem chopFrames_runsTo {en : Bool} {d : BitVec 5} (hsel : s.sel = false) (hs : s.stalled = false)
    (hr : s.running = none) :
    RunsTo 121 (s.at (.globalChop en d) (actions (.globalChop en d)) acc resp)
      (finish (chopFrames en d s) (fun _ => .success false) 0 deliverAck) := by
  unfold chopFrames readRegFrames writeRegFrames sendCommandFrame
  simp only [finish_bind, finish_done]
  exact frame_runsTo (N := 91) (.inl rfl) (by simp [fetchActions, sendActions, frameActions]) hsel hs hr
    (fun _ => rfl) (fun _ => rfl) fun _ _ _ hr hs hsel _ =>
      frame_runsTo (N := 61) (.inl rfl) (by simp [frameActions]) hsel hs hr (fun _ => rfl) (fun _ => rfl)
        fun _ _ _ hr hs hsel _ => lastTwoFrames_runsTo (.inr ⟨en, d, rfl, rfl⟩) hsel hs hr (fun _ => rfl) fun _ => rfl

/-- The two frames of a register write and its record (R99), whichever operation writes. -/
theorem writeRegOp_runsTo {a : Addr} {v : RegVal} (hop : ∀ r u, endOp op r u = deliverAck r.ack u)
    (hdraw : ∀ k, drawResult op k = (.success false, 0)) (hsel : s.sel = false) (hs : s.stalled = false)
    (hr : s.running = none) : RunsTo 61 (s.at op (writeActions a v) acc resp) (writeRegOp a v s) := by
  have h := lastTwoFrames_runsTo (op := op) (acc := acc) (resp := resp) (mk := fun _ => .success false) (n := 0)
    (.inl rfl : Action.load (sendFrame .wreg a v) = .load _ ∨ _) hsel hs hr (fun k => by rw [hdraw])
    fun k => by rw [hdraw]
  simp only [hop] at h
  unfold writeRegOp writeRegFrames sendCommandFrame
  simp only [finish_bind, finish_done]
  exact h

end HostOperations

/-- A host operation whose steps follow `run` from every state that it can be accepted in. -/
theorem hostOp_refines {i : Instr} {run : State → State} {N : Nat} {s : State}
    (h : ∀ v : State, v.sel = false → v.stalled = false → v.running = none →
      RunsTo N (start i (actions i) v) (run v)) : Refines (RunsTo N) (hostOp run s) (issueOp i s) := by
  unfold hostOp issueOp
  split
  · exact refines_refused _
  next hb =>
    obtain ⟨hs, hsel, -, hr⟩ := (busy_eq_false s).1 (by simpa using hb)
    exact refines_next (h (beginOp s) hsel hs hr)

/-- The steps of a host operation follow its meaning: 30 for each frame and one for the record (R8, R95, R12). -/
theorem exec_refines_of_hostOp {i : Instr} (hi : isHostOp i = true) (s : State) :
    Refines (RunsTo (30 * framesOf i + 1)) (exec i s) (issue i s) := by
  cases i
  case null | rreg | wreg | wdata | wack | rdata | status | chdata | crc => cases hi
  case xchgFrame | fetchResponse | readChannels | readChannelSingle =>
    rw [exec, issue]
    exact hostOp_refines fun v hsel hs hr => lastFrame_runsTo (.inl rfl) hsel hs hr (fun _ => rfl) fun _ => rfl
  case sendCommand =>
    rw [exec, issue]
    refine hostOp_refines fun v hsel hs hr => ?_
    unfold sendCommandFrame
    simp only [finish_bind, finish_done]
    exact lastFrame_runsTo (.inl rfl) hsel hs hr (fun _ => rfl) fun _ => rfl
  case readReg =>
    rw [exec, issue]
    refine hostOp_refines fun v hsel hs hr => ?_
    unfold readRegFrames sendCommandFrame
    simp only [finish_bind, finish_done]
    exact lastTwoFrames_runsTo (.inl rfl) hsel hs hr (fun _ => rfl) fun _ => rfl
  case writeReg | setGain =>
    exact hostOp_refines fun v hsel hs hr => writeRegOp_runsTo (fun _ _ => rfl) (fun _ => rfl) hsel hs hr
  case globalChop en d =>
    simp only [exec, execGlobalChop, issue]
    split
    · exact hostOp_refines fun v hsel hs hr => chopFrames_runsTo hsel hs hr
    · exact refines_refused _
  case setSclk | setClkin =>
    rw [exec, issue]
    exact hostOp_refines fun v _ hs hr => deliver_runsTo hs hr

/-! ## The Words of the wire -/

section Words
variable {op : Instr} {acc : Word} {resp : Resp} {s : State} {t : Word}

/-- The three bytes of a Word and its wait to be stored, or the fault exit, or the stall (R75, R79, R80). -/
theorem latchWord_reaches {w : Fin 6} (hop : ∀ k, drawResult op k = (drawFrame k, 7)) (hs : s.stalled = false)
    (hr : s.running = none) (hsel : s.sel = true) :
    Reaches 6 (s.at op (latchActions w) acc resp)
      (finish ((xferWord s.tx[w] s).bind fun r v => .done (w, r) v) drawFrame 7
        fun x v => { v with inWord := some x }) := by
  have h := xferWord_follows (op := op) (resp := resp) (acc := acc) (as := [.latch w]) w (by simp) hs hr hsel
  cases hx : xferWord s.tx[w] s <;> rw [hx] at h
  case done r v =>
    obtain ⟨hv, _, rfl, h⟩ := h
    have hlatch : Steps 1 (v.at op [.latch w] r resp) { v with inWord := some (w, r) } :=
      step_one hv.stalled (by simp [act, goOn, State.at, hv.running])
    exact ⟨hv.running, 4, by omega, by omega, h.trans hlatch⟩
  case fault e v =>
    obtain ⟨hv, n, hn, a, h⟩ := h
    have hexit := faultExit_steps (op := op) (acc := a) (resp := resp) (e := e) 7 hv.stalled hv.running hv.sel
      fun k => by rw [hop]
    simp only [hop] at hexit
    exact ⟨by simpa using hv.running, n + 3, by omega, by omega, h.trans hexit⟩
  case stall v =>
    obtain ⟨hv, n, hn, h0, h⟩ := h
    exact ⟨hv, n, h0, by omega, h⟩

/-- The scope of a frame opened in two steps, or the fault exit F0, or the stall (R77, R79, R80). `f` is what
follows it. -/
theorem openScope_reaches {α : Type} {as : List Action} {f : State → Reply α} {k : α → State → State} {N : Nat}
    (hop : ∀ j, drawResult op j = (drawFrame j, 7)) (has : as ≠ []) (hs : s.stalled = false) (hr : s.running = none)
    (hsel : s.sel = false)
    (hf : ∀ v : State, v.stalled = false → v.running = none → v.tx = s.tx →
      Reaches N ((selAssert v).at op as acc resp) (finish (f (selAssert v)) drawFrame 7 k)) :
    Reaches (2 + N) (s.at op (.busConfigure :: .selAssert :: as) acc resp)
      (finish ((busConfigure s).bind fun _ v => f (selAssert v)) drawFrame 7 k) := by
  have hstep := step_one (op := op) (acc := acc) (resp := resp) (a := .busConfigure) (as := .selAssert :: as) hs rfl
  simp only [act] at hstep
  rw [busConfigure_at] at hstep
  rcases busConfigure_cases s with h | ⟨e, h⟩ | h <;> rw [h] at hstep ⊢ <;> simp only [answered] at hstep
  · rw [goOn_at (by simp)] at hstep
    have hassert : ∀ v : State, v.stalled = false →
        Steps 1 (v.at op (.selAssert :: as) acc resp) ((selAssert v).at op as acc resp) := fun v hv =>
      step_one hv (goOn_at (s := selAssert v) has)
    exact .pre (hstep.trans (hassert _ hs)) (hf _ hs hr rfl)
  · rw [goOn_at (by simp)] at hstep
    have habort : ∀ v : State, v.stalled = false → v.running = none → v.sel = false →
        Steps 1 (v.at op [.abort e] acc resp) (raiseTransportFault e drawFrame 7 v) := fun v hv hrv hselv =>
      step_one hv (by simp [act, abortOp, hop, raiseTransportFault, faultExit, hselv, deliverFault, lostFrame,
        State.at, hrv])
    exact ⟨by simpa using hr, 2, by omega, by omega, hstep.trans (habort _ hs hr hsel)⟩
  · refine ⟨hr, 1, by omega, by omega, ?_⟩
    convert hstep using 1
    simp [hang, State.at, hr]

/-- A Word is loaded in its place of a new frame when the frame is loaded. -/
theorem cmdFrame_set_zero (t : Word) : (cmdFrame t).set 0 t = cmdFrame t := rfl

/-- A transmitted Word of a new frame: its scope opened, then its bytes (R76, R77, R79, R80). -/
theorem openWord_reaches (hs : s.stalled = false) (hr : s.running = none) (hsel : s.sel = false) :
    Reaches 9 (s.at (.xchgFrame t) (.load (cmdFrame t) :: .busConfigure :: .selAssert :: latchActions 0) acc resp)
      (finish ((openFrame { s with tx := cmdFrame t }).bind fun _ s =>
        (xferWord t { s with tx := s.tx.set s.seq.w t }).bind fun r v => .done (s.seq.w, r) v)
        drawFrame 7 fun x v => { v with inWord := some x }) := by
  have hload : Steps 1
      (s.at (.xchgFrame t) (.load (cmdFrame t) :: .busConfigure :: .selAssert :: latchActions 0) acc resp)
      (({ s with tx := cmdFrame t, frameNo := s.frameNo + 1 } : State).at (.xchgFrame t)
        (.busConfigure :: .selAssert :: latchActions 0) acc resp) := step_one hs rfl
  unfold openFrame
  rw [bind_bind]
  simp only [bind_done]
  refine .pre hload (openScope_reaches (N := 6) (fun _ => rfl) (by simp [latchActions]) hs hr hsel
    (f := fun s => (xferWord t { s with tx := s.tx.set s.seq.w t }).bind fun r v => .done (s.seq.w, r) v)
    fun v hv hrv htx => ?_)
  have htx : v.tx = cmdFrame t := htx
  have hw := latchWord_reaches (op := .xchgFrame t) (acc := acc) (resp := resp) (w := 0) (s := selAssert v)
    (fun _ => rfl) hv hrv rfl
  have hset : ({ selAssert v with tx := (selAssert v).tx.set (selAssert v).seq.w t } : State) = selAssert v := by
    have h0 : v.tx.set 0 t = v.tx := by rw [htx]; exact cmdFrame_set_zero t
    simp [selAssert, h0]
  have ht : (selAssert v).tx[(0 : Fin 6)] = t := by rw [selAssert_tx, htx]; rfl
  rw [ht] at hw
  rw [hset]
  exact hw

/-- The steps of a transmitted Word follow its meaning (R75, R76, log 13). -/
theorem sendWord_reaches (hs : s.stalled = false) (hr : s.running = none) :
    Reaches 9 (startWord t s) (sendWord t s) := by
  unfold startWord
  split
  next hsel =>
    have h := latchWord_reaches (op := .xchgFrame t) (acc := nullWord) (resp := correlate ⟨.none, 0⟩ nullWord)
      (s := { s with tx := s.tx.set s.seq.w t }) (w := s.seq.w) (fun _ => rfl) hs hr hsel
    have ht : (s.tx.set s.seq.w t)[s.seq.w] = t := Vector.getElem_set_self _
    rw [ht] at h
    have hload : Steps 1 (start (.xchgFrame t) (.loadWord s.seq.w t :: latchActions s.seq.w) s)
        (({ s with tx := s.tx.set s.seq.w t } : State).at (.xchgFrame t) (latchActions s.seq.w) nullWord
          (correlate ⟨.none, 0⟩ nullWord)) := step_one hs rfl
    unfold sendWord
    rw [wordScope_of_sel hsel, bind_done]
    exact (Reaches.pre hload h).mono (by omega)
  next hsel =>
    have hsel : s.sel = false := by simpa using hsel
    have h := openWord_reaches (t := t) (acc := nullWord) (resp := correlate ⟨.none, 0⟩ nullWord) (s := beginOp s)
      hs hr hsel
    unfold sendWord wordScope
    rw [if_neg (by simp [hsel])]
    exact h

/-- The end of a whole frame: its scope released and the correlator's step (R76, R95). -/
theorem closeFrame_steps {rest : List Action} (hrest : rest ≠ []) (hs : s.stalled = false) :
    Steps 3 (s.at op (closeActions ++ rest) acc resp)
      (({ closeFrame s with pend := kindOf s.tx[0] } : State).at op rest acc (correlate s.pend s.rx[0])) := by
  have hdeassert : Steps 1 (s.at op (closeActions ++ rest) acc resp)
      (({ s.event .selDeassert with sel := false, device := s.device.map (deviceAfter s.tx) } : State).at op
        (.busRelease :: .correlate :: rest) acc resp) := step_one hs rfl
  have hrelease : Steps 1
      (({ s.event .selDeassert with sel := false, device := s.device.map (deviceAfter s.tx) } : State).at op
        (.busRelease :: .correlate :: rest) acc resp) ((closeFrame s).at op (.correlate :: rest) acc resp) :=
    step_one hs rfl
  have hcorrelate : Steps 1 ((closeFrame s).at op (.correlate :: rest) acc resp)
      (({ closeFrame s with pend := kindOf s.tx[0] } : State).at op rest acc (correlate s.pend s.rx[0])) :=
    step_one hs (by simp [act, goOn, State.at, hrest])
  exact hdeassert.trans (hrelease.trans hcorrelate)

/-- A frame made Word by Word ends in four steps, the last its record (R95, R100). -/
theorem endWordFrame_reaches {cmd : Word} (hs : s.stalled = false) (hr : s.running = none) :
    Reaches 4 (s.at (.xchgFrame cmd) (closeActions ++ [.deliver]) acc resp) (endWordFrame s) :=
  .pre (N := 1) (closeFrame_steps (by simp) hs)
    (deliver_runsTo (s := { closeFrame s with pend := kindOf s.tx[0] }) hs hr).reaches

/-- The steps of a received Word follow its meaning; those of Word 5 end the frame (R76, R95, log 13). -/
theorem receiveWord_reaches {w : Fin 6} {x : Word} (hs : s.stalled = false) (hr : s.running = none) :
    Reaches 9 (startTake w x s) (receiveWord w x s) := by
  unfold startTake receiveWord
  split
  next =>
    have htake : Steps 1 (start (.xchgFrame s.tx[0]) (.take w x :: (closeActions ++ [.deliver])) s)
        (({ storeWord w x s with inWord := none } : State).at (.xchgFrame s.tx[0]) (closeActions ++ [.deliver])
          nullWord (correlate ⟨.none, 0⟩ nullWord)) := step_one hs rfl
    exact (Reaches.pre htake (endWordFrame_reaches hs hr)).mono (by omega)
  next =>
    have h : Steps 1 (start (.xchgFrame s.tx[0]) [.take w x] s) { storeWord w x s with inWord := none } :=
      step_one hs (by simp [act, goOn, State.at, storeWord, hr])
    exact ⟨hr, 1, by omega, by omega, h⟩

/-- The steps of a transmitted row follow its meaning. -/
theorem txWord_refines (t : Word) (s : State) : Refines (Reaches 9) (txWord t s) (issueTx t s) := by
  unfold txWord issueTx
  split
  · exact refines_refused _
  next he =>
    obtain ⟨hs, hr⟩ := (engaged_eq_false s).1 (by simpa using he)
    split
    · exact refines_refused _
    · exact refines_next (sendWord_reaches hs hr)

/-- The steps of a received row follow its meaning. -/
theorem rxWord_refines (x : Word) (s : State) : Refines (Reaches 9) (rxWord x s) (issueRx x s) := by
  unfold rxWord issueRx
  split
  · exact refines_refused _
  next he =>
    obtain ⟨hs, hr⟩ := (engaged_eq_false s).1 (by simpa using he)
    cases s.inWord
    · exact refines_refused _
    · exact refines_next (receiveWord_reaches hs hr)

end Words

/-- The steps of a Word of the wire follow its meaning (R75, R76, log 13). -/
theorem exec_refines_of_word {i : Instr} (hi : isHostOp i = false) (s : State) :
    Refines (Reaches 9) (exec i s) (issue i s) := by
  cases i
  case null | rreg | wreg | wdata => exact txWord_refines _ s
  case wack | rdata | status | chdata | crc => exact rxWord_refines _ s
  all_goals cases hi

/-- Settles O5: the steps of a host operation follow its meaning frame by frame, those of a Word byte by byte. -/
theorem primitiveStepsMakeTheOperation : Obligations.PrimitiveStepsMakeTheOperation := by
  intro i s
  cases hi : isHostOp i
  case false =>
    obtain ⟨hnext, hrefused⟩ := exec_refines_of_word hi s
    refine ⟨fun t ht => ?_, hrefused⟩
    obtain ⟨u, hu, hr, n, h0, hn, hsteps, hbefore⟩ := hnext t ht
    exact ⟨hr, u, n, hu, issue_trace hu, h0, by omega, hsteps, hbefore, by simp⟩
  case true =>
    obtain ⟨hnext, hrefused⟩ := exec_refines_of_hostOp hi s
    refine ⟨fun t ht => ?_, hrefused⟩
    obtain ⟨u, hu, hr, n, h0, hn, ⟨hsteps, hbefore⟩, hexact⟩ := hnext t ht
    exact ⟨hr, u, n, hu, issue_trace hu, h0, by omega, hsteps, hbefore, fun _ => hexact⟩

end Sys2Proof.Machine
end

section
/-! Settles `EveryStepKeepsTheInvariant`. Inside an operation the invariant is a phase of the wire trace with which the
registers agree (`Between`), and each action moves it along `Phase.next`. An instruction run whole reaches its end by
the steps of R8 (`exec_refines_of_hostOp`, `exec_refines_of_word`), so it keeps what they keep. -/

namespace Sys2Proof.Machine

/-! ## The steps that may follow in a phase -/

section Runs
variable {p : Phase} {as : List Action}

theorem runs_load {tx : Frame} : p.runs (.load tx :: as) = true ↔ p = .idle ∧ p.runs as = true := by
  cases p <;> simp [Phase.runs]

theorem runs_loadMerged {en : Bool} {d : BitVec 5} :
    p.runs (.loadMerged en d :: as) = true ↔ p = .idle ∧ p.runs as = true := by
  cases p <;> simp [Phase.runs]

theorem runs_loadWord {w : Fin 6} {t : Word} :
    p.runs (.loadWord w t :: as) = true ↔ p = .selected (3 * w.val) ∧ p.runs as = true := by
  cases p <;> simp [Phase.runs]

theorem runs_busConfigure : p.runs (.busConfigure :: as) = true ↔ p = .idle ∧ Phase.held.runs as = true := by
  cases p <;> simp [Phase.runs]

theorem runs_selAssert : p.runs (.selAssert :: as) = true ↔ p = .held ∧ (Phase.selected 0).runs as = true := by
  cases p <;> simp [Phase.runs]

theorem runs_xferByte {w : Fin 6} {b : Fin 3} : p.runs (.xferByte w b :: as) = true ↔
    p = .selected (3 * w.val + b.val) ∧ (Phase.selected (3 * w.val + b.val + 1)).runs as = true := by
  cases p <;> simp [Phase.runs]
  rintro rfl
  rfl

theorem runs_store {w : Fin 6} :
    p.runs (.store w :: as) = true ↔ p = .selected (3 * w.val + 3) ∧ p.runs as = true := by
  cases p <;> simp [Phase.runs]

theorem runs_latch {w : Fin 6} : p.runs (.latch w :: as) = true ↔ p = .selected (3 * w.val + 3) ∧ as = [] := by
  cases p <;> cases as <;> simp [Phase.runs]

theorem runs_take {w : Fin 6} {x : Word} : p.runs (.take w x :: as) = true ↔
    p = .selected (3 * w.val + 3) ∧ if w = 5 then p.runs as = true else as = [] := by
  cases p <;> simp [Phase.runs]

theorem runs_selDeassert {whole : Bool} : p.runs (.selDeassert whole :: as) = true ↔
    p = (if whole then .selected 18 else .cut) ∧ Phase.released.runs as = true := by
  cases p <;> cases whole <;> simp [Phase.runs]

theorem runs_busRelease : p.runs (.busRelease :: as) = true ↔ p = .released ∧ Phase.idle.runs as = true := by
  cases p <;> simp [Phase.runs]

theorem runs_correlate : p.runs (.correlate :: as) = true ↔ p = .idle ∧ p.runs as = true := by
  cases p <;> simp [Phase.runs]

theorem runs_deliver : p.runs (.deliver :: as) = true ↔ p = .idle ∧ as = [] := by
  cases p <;> cases as <;> simp [Phase.runs]

theorem runs_abort {e : TErr} : p.runs (.abort e :: as) = true ↔ p = .idle ∧ as = [] := by
  cases p <;> cases as <;> simp [Phase.runs]

end Runs

/-! ## The sequencer and the trace -/

/-- A byte moves the sequencer one position on in the frame (R17). -/
theorem seq_next_of_byte {q : Seq} {n : Nat} (hn : n < 18) (h : n = 3 * q.w.val + q.b.val ∨ n = 18 ∧ q = ⟨5, 2⟩) :
    n + 1 = 3 * q.next.w.val + q.next.b.val ∨ n + 1 = 18 ∧ q.next = ⟨5, 2⟩ := by
  obtain rfl : n = 3 * q.w.val + q.b.val := by omega
  obtain ⟨w, b⟩ := q
  revert w b
  decide

/-- Behind the bytes of Word `i` the sequencer stands where that Word leaves it (R17). -/
theorem seq_of_wordEnd {q : Seq} {i : Fin 6}
    (h : 3 * i.val + 3 = 3 * q.w.val + q.b.val ∨ 3 * i.val + 3 = 18 ∧ q = ⟨5, 2⟩) :
    q = Seq.next ⟨i, 2⟩ := by
  obtain ⟨w, b⟩ := q
  revert i w b
  decide

/-- Where a Word leaves the sequencer is behind its bytes (R17). -/
theorem wordEnd_of_seq (i : Fin 6) : 3 * i.val + 3 = 3 * (Seq.next ⟨i, 2⟩).w.val + (Seq.next ⟨i, 2⟩).b.val ∨
    3 * i.val + 3 = 18 ∧ Seq.next ⟨i, 2⟩ = ⟨5, 2⟩ := by
  revert i
  decide

/-- The trace with one more event. -/
theorem scan_snoc {p q r : Phase} {tr : List Event} {e : Event} (h : scan p tr = some q) (he : q.next e = some r) :
    scan p (tr ++ [e]) = some r := by
  induction tr generalizing p with
  | nil => cases h; simp [scan, he]
  | cons f tr ih =>
    rw [List.cons_append, scan]
    rw [scan] at h
    split at h
    · exact ih h
    · cases h

/-! ## The invariant inside an operation -/

/-- What holds of a state in phase `p`, whatever it has still to do: the part of `BlockInv` that a step hands on. -/
structure Between (p : Phase) (s : State) : Prop where
  notStalled : s.stalled = false
  wire : scan .idle s.trace = some p
  agrees : p.agrees s
  pendAddr : s.pend.kind = .none ∨ s.pend.kind = .other → s.pend.addr = 0
  noRecord : s.response = none

/-- A phase says nothing of a state but `SEL`, `BUS_HELD` and `SEQ`. -/
theorem Phase.agrees.congr {p : Phase} {s t : State} (h : p.agrees s) (hsel : t.sel = s.sel)
    (hheld : t.busHeld = s.busHeld) (hseq : t.seq = s.seq) : p.agrees t := by
  cases p <;> simp only [Phase.agrees, hsel, hheld, hseq] at h ⊢ <;> exact h

/-- A step that changes no register of the scope stays in the phase. -/
theorem Between.congr {p : Phase} {s t : State} (h : Between p s) (hst : t.stalled = s.stalled)
    (htr : t.trace = s.trace) (hsel : t.sel = s.sel) (hheld : t.busHeld = s.busHeld) (hseq : t.seq = s.seq)
    (hresp : t.response = s.response)
    (hpend : t.pend.kind = .none ∨ t.pend.kind = .other → t.pend.addr = 0) : Between p t :=
  ⟨hst.trans h.notStalled, htr ▸ h.wire, h.agrees.congr hsel hheld hseq, hpend, hresp.trans h.noRecord⟩

/-- In no phase is select asserted without the bus (R22, R23). -/
theorem Phase.agrees.scope {p : Phase} {s : State} (h : p.agrees s) (hsel : s.sel = true) : s.busHeld = true := by
  cases p <;> simp_all [Phase.agrees]

/-- Between two steps: the steps to come may follow in the phase, and no Word waits but for the step that takes it. -/
theorem blockInv_between {p : Phase} {s : State} {r : Running} (h : Between p s) (hr : s.running = some r)
    (hp : p.runs r.todo = true)
    (hword : ∀ i w, s.inWord = some (i, w) →
      (∃ a as, r.todo = a :: as ∧ isTake a = true) ∧ s.sel = true ∧ s.seq = Seq.next ⟨i, 2⟩) : BlockInv s where
  wire hn := by rw [hr] at hn; cases hn
  going r' hr' := by
    rw [hr] at hr'; cases hr'
    refine ⟨h.notStalled, ⟨p, h.wire, h.agrees, hp⟩, fun hw => ?_⟩
    obtain ⟨⟨i, w⟩, hw⟩ := Option.isSome_iff_exists.1 hw
    exact (hword i w hw).1
  scope := ⟨h.agrees.scope, fun hn => by rw [hr] at hn; cases hn⟩
  pendAddr := h.pendAddr
  record _ hrec := by rw [h.noRecord] at hrec; cases hrec
  noRecord _ := h.noRecord
  waiting i w hw := ⟨(hword i w hw).2.1, h.notStalled, (hword i w hw).2.2⟩
  atWord _ _ hn := by rw [hr] at hn; cases hn

/-- The operation goes on where steps are left. -/
theorem Between.blockInv_goOn {p : Phase} {s : State} {r : Running} (h : Between p s) (hw : s.inWord = none)
    (hp : p.runs r.todo = true) : BlockInv (goOn r s) := by
  have hne : r.todo ≠ [] := by
    intro he; rw [he, runs_nil] at hp; cases hp
  refine blockInv_between (r := r) (p := p) (h.congr rfl rfl rfl rfl rfl rfl h.pendAddr) (by simp [hne]) hp ?_
  intro i w hi
  rw [goOn_inWord, hw] at hi
  cases hi

/-- A primitive that never returned: the trace is dead and the registers stand as they stood (R80). -/
theorem Between.blockInv_hang {p : Phase} {s : State} {e : Event} (h : Between p s) (hw : s.inWord = none)
    (hscope : s.busHeld = s.sel) (he : p.next e = some .dead) :
    BlockInv (hang { s.called.event e with running := none }) where
  wire _ := scan_snoc h.wire he
  going _ hr := by cases hr
  scope := ⟨h.agrees.scope, fun _ => hscope⟩
  pendAddr := h.pendAddr
  record _ hrec := by cases h.noRecord.symm.trans hrec
  noRecord _ := h.noRecord
  waiting _ _ hi := by cases hw.symm.trans hi
  atWord _ hs := by cases hs

/-- A frame held open between two of its Words (log 13). -/
theorem Between.blockInv_openFrame {n : Nat} {s : State} (h : Between (.selected n) s) (hr : s.running = none)
    (hphase : phaseOf s = .selected n) (hwait : ∀ i w, s.inWord = some (i, w) → s.seq = Seq.next ⟨i, 2⟩)
    (hword : s.inWord = none → s.seq.b = 0) : BlockInv s := by
  obtain ⟨hsel, hheld, -⟩ := h.agrees
  exact {
    wire := fun _ => by rw [hphase]; exact h.wire
    going := fun _ hr' => by cases hr.symm.trans hr'
    scope := ⟨fun _ => hheld, fun _ => hheld.trans hsel.symm⟩
    pendAddr := h.pendAddr
    record := fun _ hrec => by cases h.noRecord.symm.trans hrec
    noRecord := fun _ => h.noRecord
    waiting := fun i w hi => ⟨hsel, h.notStalled, hwait i w hi⟩
    atWord := fun _ _ _ hi => hword hi }

/-- `t` is `s` with a consistent record delivered (R12). -/
structure Recorded (s t : State) : Prop where
  running : t.running = s.running
  stalled : t.stalled = s.stalled
  trace : t.trace = s.trace
  sel : t.sel = s.sel
  busHeld : t.busHeld = s.busHeld
  inWord : t.inWord = s.inWord
  pend : t.pend = s.pend
  record : ∃ r, t.response = some r ∧ recordOk r

/-- The record of an operation cut by a fault is consistent: `success` is false in it (R12, R99). -/
theorem drawResult_success {op : Instr} {n : Nat} {b : Bool} (h : (drawResult op n).1 = .success b) : b = false := by
  cases op
  case writeReg | setGain | globalChop => cases h; rfl
  all_goals cases h

theorem deliver_recorded {c : Cause} {r : Result} (s : State) (hc : c ≠ .transportFault)
    (hr : ∀ b, r = .success b → b = successOf c) : Recorded s (deliver c r s) :=
  ⟨rfl, rfl, rfl, rfl, rfl, rfl, rfl, _, rfl, by simp [hc], hr⟩

theorem deliverAck_recorded (ack : Bool) (s : State) : Recorded s (deliverAck ack s) :=
  deliver_recorded s (by cases ack <;> simp [ackCause]) (by rintro _ ⟨⟩; rfl)

/-- An operation's own end delivers a consistent record (R12). -/
theorem endOp_recorded (op : Instr) (r : Resp) (s : State) : Recorded s (endOp op r s) := by
  cases op
  case writeReg | setGain | globalChop => exact deliverAck_recorded _ s
  case setSclk | setClkin => exact ⟨rfl, rfl, rfl, rfl, rfl, rfl, rfl, _, rfl, rfl, by simp⟩
  all_goals exact deliver_recorded s (by simp) (by simp)

/-- The fault exit delivers a consistent record (R11, R12). -/
theorem abortOp_recorded (op : Instr) (e : TErr) (s : State) : Recorded (lostFrame s) (abortOp op e s) :=
  ⟨rfl, rfl, rfl, rfl, rfl, rfl, rfl, _, rfl, rfl, fun _ hb => drawResult_success hb⟩

/-- An operation over: no scope is held and its record is there (R24, R165). -/
theorem Between.blockInv_recorded {s t : State} (h : Between .idle s) (hr : s.running = none) (hw : s.inWord = none)
    (ht : Recorded s t) : BlockInv t := by
  obtain ⟨hsel, hheld⟩ := h.agrees
  have hsel' : t.sel = false := ht.sel.trans hsel
  have hst' : t.stalled = false := ht.stalled.trans h.notStalled
  have hr' : t.running = none := ht.running.trans hr
  obtain ⟨_, hresp, hrec⟩ := ht.record
  exact {
    wire := fun _ => by rw [ht.trace, h.wire, phaseOf, hst', hsel']; rfl
    going := fun _ hgo => by cases hr'.symm.trans hgo
    scope := ⟨fun hs => (by cases hsel'.symm.trans hs), fun _ => by rw [ht.busHeld, ht.sel, hheld, hsel]⟩
    pendAddr := by rw [ht.pend]; exact h.pendAddr
    record := fun _ hx => by cases hresp.symm.trans hx; exact hrec
    noRecord := by simp [hsel', hst', hr']
    waiting := fun _ _ hi => by cases (ht.inWord.trans hw).symm.trans hi
    atWord := fun hs => by cases hsel'.symm.trans hs }

/-! ## Each step of an operation -/

section Act
variable {p : Phase} {r : Running} {s : State}

/-- `BusConfigure` claims the bus, or fails with nothing held, or never returns (R77, R79, R80). -/
theorem busConfigure_keeps (h : Between p s) (hw : s.inWord = none)
    (hp : p.runs (.busConfigure :: r.todo) = true) : BlockInv (act .busConfigure r s) := by
  obtain ⟨rfl, hp⟩ := runs_busConfigure.1 hp
  obtain ⟨hsel, hheld⟩ := h.agrees
  simp only [act]
  rcases busConfigure_cases s with hc | ⟨e, hc⟩ | hc <;> rw [hc]
  · exact Between.blockInv_goOn ⟨h.notStalled, scan_snoc h.wire rfl, ⟨hsel, rfl⟩, h.pendAddr, h.noRecord⟩ hw hp
  · exact Between.blockInv_goOn ⟨h.notStalled, scan_snoc h.wire rfl, ⟨hsel, hheld⟩, h.pendAddr, h.noRecord⟩ hw rfl
  · exact h.blockInv_hang hw (hheld.trans hsel.symm) rfl

/-- `XferByte` moves the sequencer one byte on, or fails in the scope, or never returns (R17, R79, R80). -/
theorem xferByte_keeps {w : Fin 6} {b : Fin 3} (h : Between p s) (hw : s.inWord = none)
    (hp : p.runs (.xferByte w b :: r.todo) = true) : BlockInv (act (.xferByte w b) r s) := by
  obtain ⟨rfl, hrest⟩ := runs_xferByte.1 hp
  have hn : 3 * w.val + b.val < 18 := by omega
  obtain ⟨hsel, hheld, hseq⟩ := h.agrees
  simp only [act]
  rcases xferByte_cases (wordByte s.tx[w] b) s with ⟨i, hc⟩ | ⟨e, hc⟩ | hc <;> rw [hc]
  · exact Between.blockInv_goOn ⟨h.notStalled, scan_snoc h.wire (if_pos hn), ⟨hsel, hheld, seq_next_of_byte hn hseq⟩,
      h.pendAddr, h.noRecord⟩ hw hrest
  · exact Between.blockInv_goOn (p := .cut) ⟨h.notStalled, scan_snoc h.wire (if_pos hn), ⟨hsel, hheld⟩, h.pendAddr,
      h.noRecord⟩ hw rfl
  · exact h.blockInv_hang hw (hheld.trans hsel.symm) (if_pos hn)

/-- The Word received waits in the open frame (log 13). -/
theorem latch_keeps {w : Fin 6} (h : Between p s) (hp : p.runs (.latch w :: r.todo) = true) :
    BlockInv (act (.latch w) r s) := by
  obtain ⟨rfl, htodo⟩ := runs_latch.1 hp
  obtain ⟨hsel, hheld, hseq⟩ := h.agrees
  have hq := seq_of_wordEnd hseq
  refine Between.blockInv_openFrame (n := 3 * w.val + 3) (h.congr rfl rfl rfl rfl rfl rfl h.pendAddr)
    (by simp [act, htodo]) ?_ ?_ ?_
  · simp [phaseOf, act, h.notStalled, hsel]
  · rintro i x ⟨⟩; exact hq
  · rintro ⟨⟩

/-- The Word that waits is stored: its frame goes on to its end, or stands open at its next Word (R76, log 13). -/
theorem take_keeps {w : Fin 6} {x : Word} (h : Between p s) (hp : p.runs (.take w x :: r.todo) = true) :
    BlockInv (act (.take w x) r s) := by
  obtain ⟨rfl, htodo⟩ := runs_take.1 hp
  obtain ⟨hsel, hheld, hseq⟩ := h.agrees
  have ht : Between (.selected (3 * w.val + 3)) { storeWord w x s with inWord := none } :=
    h.congr rfl rfl rfl rfl rfl rfl h.pendAddr
  simp only [act]
  split at htodo
  · exact ht.blockInv_goOn rfl htodo
  next hw5 =>
    have hpos : 3 * w.val + 3 = 3 * s.seq.w.val + s.seq.b.val ∧ s.seq.b = 0 := by omega
    refine Between.blockInv_openFrame (n := 3 * w.val + 3) (ht.congr rfl rfl rfl rfl rfl rfl h.pendAddr)
      (by simp [htodo]) ?_ ?_ ?_
    · simp [phaseOf, h.notStalled, hsel, hpos.1]
    · rintro _ _ ⟨⟩
    · intro _; exact hpos.2

/-- One step of an operation keeps the invariant: each action leads from the phase in which it may stand to one in which
the steps after it may follow. -/
theorem act_keeps {a : Action} (h : Between p s) (hp : p.runs (a :: r.todo) = true)
    (hword : s.inWord.isSome = true → isTake a = true) : BlockInv (act a r s) := by
  by_cases ht : isTake a = true
  · cases a <;> cases ht
    exact take_keeps h hp
  have hw : s.inWord = none := by simpa using mt hword ht
  cases a
  case take => exact absurd rfl ht
  case load tx =>
    exact Between.blockInv_goOn (h.congr rfl rfl rfl rfl rfl rfl h.pendAddr) hw (runs_load.1 hp).2
  case loadMerged en d =>
    exact Between.blockInv_goOn (h.congr rfl rfl rfl rfl rfl rfl h.pendAddr) hw (runs_loadMerged.1 hp).2
  case loadWord i t =>
    exact Between.blockInv_goOn (h.congr rfl rfl rfl rfl rfl rfl h.pendAddr) hw (runs_loadWord.1 hp).2
  case busConfigure => exact busConfigure_keeps h hw hp
  case selAssert =>
    obtain ⟨rfl, hp⟩ := runs_selAssert.1 hp
    obtain ⟨-, hheld⟩ := h.agrees
    exact Between.blockInv_goOn ⟨h.notStalled, scan_snoc h.wire rfl, ⟨rfl, hheld, .inl rfl⟩, h.pendAddr, h.noRecord⟩ hw
      hp
  case xferByte => exact xferByte_keeps h hw hp
  case store i =>
    exact Between.blockInv_goOn (h.congr rfl rfl rfl rfl rfl rfl h.pendAddr) hw (runs_store.1 hp).2
  case latch => exact latch_keeps h hp
  case selDeassert whole =>
    obtain ⟨rfl, hrest⟩ := runs_selDeassert.1 hp
    have hheld : s.busHeld = true := by cases whole; exacts [h.agrees.2, h.agrees.2.1]
    have hnext : Phase.next (if whole then .selected 18 else .cut) .selDeassert = some .released := by
      cases whole <;> rfl
    exact Between.blockInv_goOn ⟨h.notStalled, scan_snoc h.wire hnext, ⟨rfl, hheld⟩, h.pendAddr, h.noRecord⟩ hw hrest
  case busRelease =>
    obtain ⟨rfl, hp⟩ := runs_busRelease.1 hp
    obtain ⟨hsel, -⟩ := h.agrees
    exact Between.blockInv_goOn ⟨h.notStalled, scan_snoc h.wire rfl, ⟨hsel, rfl⟩, h.pendAddr, h.noRecord⟩ hw hp
  case correlate =>
    exact Between.blockInv_goOn (h.congr rfl rfl rfl rfl rfl rfl (kindOf_addr _)) hw (runs_correlate.1 hp).2
  case deliver =>
    obtain ⟨rfl, -⟩ := runs_deliver.1 hp
    exact Between.blockInv_recorded (s := { s with running := none }) (h.congr rfl rfl rfl rfl rfl rfl h.pendAddr)
      rfl hw (endOp_recorded _ _ _)
  case abort e =>
    obtain ⟨rfl, -⟩ := runs_abort.1 hp
    exact Between.blockInv_recorded (s := lostFrame { s with running := none })
      (h.congr rfl rfl rfl rfl rfl rfl fun _ => rfl) rfl hw (abortOp_recorded _ _ _)

end Act

/-- A step of an operation in progress keeps the invariant, at either grain (R8). -/
theorem step_running_keeps {s t : State} (h : BlockInv s) (hr : s.running.isSome = true) (hst : step s = .next t) :
    BlockInv t := by
  obtain ⟨r, hr⟩ := Option.isSome_iff_exists.1 hr
  obtain ⟨hs, ⟨p, hwire, hagree, hp⟩, hword⟩ := h.going r hr
  have hb : Between p s := ⟨hs, hwire, hagree, h.pendAddr, h.noRecord (by simp [hr])⟩
  cases htodo : r.todo with
  | nil => rw [htodo, runs_nil] at hp; cases hp
  | cons a as =>
    rw [step_running hs hr htodo] at hst
    cases hst
    rw [htodo] at hp
    refine act_keeps (r := { r with todo := as }) hb hp fun hw => ?_
    obtain ⟨a', as', he, ha⟩ := hword hw
    cases htodo.symm.trans he
    exact ha

/-! ## Accepting an instruction -/

/-- What holds of a state at rest, no operation being between two of its steps. -/
theorem BlockInv.between {s : State} (h : BlockInv s) (hs : s.stalled = false) (hr : s.running = none)
    (hresp : s.response = none) : Between (phaseOf s) s := by
  refine ⟨hs, h.wire hr, ?_, h.pendAddr, hresp⟩
  have hheld := h.scope.2 hr
  cases hsel : s.sel with
  | false => simp [phaseOf, hs, hsel, Phase.agrees, hheld]
  | true =>
    cases hw : s.inWord with
    | none => simp [phaseOf, hs, hsel, hw, Phase.agrees, hheld]
    | some x =>
      obtain ⟨i, w⟩ := x
      obtain ⟨-, -, hq⟩ := h.waiting i w hw
      simpa [phaseOf, hs, hsel, hw, Phase.agrees, hheld, hq] using wordEnd_of_seq i

/-- At rest with no scope held, `s` with the record gone is a state to begin an operation in. -/
theorem BlockInv.between_beginOp {s : State} (h : BlockInv s) (hs : s.stalled = false) (hr : s.running = none)
    (hsel : s.sel = false) : Between .idle (beginOp s) :=
  ⟨hs, by simpa [phaseOf, hs, hsel] using h.wire hr, ⟨hsel, (h.scope.2 hr).trans hsel⟩, h.pendAddr, rfl⟩

/-- An operation accepted, no Word waiting. -/
theorem Between.blockInv_start {p : Phase} {s : State} {op : Instr} {todo : List Action} (h : Between p s)
    (hw : s.inWord = none) (hp : p.runs todo = true) : BlockInv (start op todo s) :=
  blockInv_between (h.congr rfl rfl rfl rfl rfl rfl h.pendAddr) rfl hp fun _ _ hi => by cases hw.symm.trans hi

/-- A transmitted Word accepted: the frame stands at the first byte of a Word, or one is opened (R75, R76). -/
theorem startWord_keeps {s : State} {t : Word} (h : BlockInv s) (hs : s.stalled = false) (hr : s.running = none)
    (hw : s.inWord = none) : BlockInv (startWord t s) := by
  unfold startWord
  split
  next hsel =>
    have hb := h.between hs hr (h.noRecord (.inl hsel))
    have hphase : phaseOf s = .selected (3 * s.seq.w.val) := by
      simp [phaseOf, hs, hsel, hw, h.atWord hsel hs hr hw]
    refine hb.blockInv_start hw ?_
    simp [hphase, latchActions, Phase.runs]
  next hsel =>
    exact (h.between_beginOp hs hr (by simpa using hsel)).blockInv_start hw rfl

/-- A received Word accepted: the trace stands behind its bytes (R76). -/
theorem startTake_keeps {s : State} {j : Fin 6} {x w : Word} (h : BlockInv s) (hr : s.running = none)
    (hw : s.inWord = some (j, w)) : BlockInv (startTake j x s) := by
  obtain ⟨hsel, hs, hq⟩ := h.waiting j w hw
  have hb := h.between hs hr (h.noRecord (.inl hsel))
  have hphase : phaseOf s = .selected (3 * j.val + 3) := by simp [phaseOf, hs, hsel, hw]
  rw [hphase] at hb
  refine blockInv_between (hb.congr rfl rfl rfl rfl rfl rfl h.pendAddr) rfl (runs_take.2 ⟨rfl, ?_⟩) ?_
  · split
    next hj => subst hj; rfl
    next => rfl
  · intro i y hi
    cases hw.symm.trans hi
    exact ⟨⟨_, _, rfl, rfl⟩, hsel, hq⟩

/-- Accepting an instruction keeps the invariant. -/
theorem issue_keeps {i : Instr} {s u : State} (h : BlockInv s) (hi : issue i s = .next u) : BlockInv u := by
  cases issue_ok hi with
  | operation hop _ hb =>
    obtain ⟨hs, hsel, hw, hr⟩ := (busy_eq_false s).1 hb
    exact (h.between_beginOp hs hr hsel).blockInv_start hw (runs_actions hop)
  | sent t _ he hw =>
    obtain ⟨hs, hr⟩ := (engaged_eq_false s).1 he
    exact startWord_keeps h hs hr hw
  | received x w j _ he hw => exact startTake_keeps h ((engaged_eq_false s).1 he).2 hw

/-! ## Whole instructions -/

/-- A run of steps begins with one step of the operation in progress. -/
theorem Steps.uncons {n : Nat} {u t : State} (h : Steps (n + 1) u t) :
    u.running.isSome = true ∧ ∃ v, step u = .next v ∧ Steps n v t := by
  obtain ⟨hrun, hbefore⟩ := h
  obtain ⟨u', hu, hr⟩ := hbefore 0 (by omega)
  cases hu
  rw [stepN] at hrun
  cases hv : step u <;> rw [hv] at hrun
  case next v =>
    refine ⟨hr, v, rfl, hrun, fun m hm => ?_⟩
    have hm := hbefore (m + 1) (by omega)
    rwa [stepN, hv] at hm
  all_goals cases hrun

/-- A run of steps, an operation being in progress before each, keeps the invariant. -/
theorem Steps.keeps {n : Nat} {u t : State} (h : Steps n u t) (hu : BlockInv u) : BlockInv t := by
  induction n generalizing u with
  | zero => cases h.1; exact hu
  | succ n ih =>
    obtain ⟨hr, v, hv, hn⟩ := h.uncons
    exact ih hn (step_running_keeps hu hr hv)

/-- What the steps of R8 reach from a state that meets the invariant meets it. -/
theorem Reaches.keeps {N : Nat} {u t : State} (h : Reaches N u t) (hu : BlockInv u) : BlockInv t := by
  obtain ⟨-, n, -, -, hn⟩ := h
  exact hn.keeps hu

/-- An instruction run whole keeps the invariant: its steps do. -/
theorem exec_keeps {i : Instr} {s t : State} (h : BlockInv s) (he : exec i s = .next t) : BlockInv t := by
  obtain ⟨-, u, n, hu, -, -, -, hn, hbefore, -⟩ := (primitiveStepsMakeTheOperation i s).1 t he
  exact Steps.keeps ⟨hn, hbefore⟩ (issue_keeps h hu)

/-- An instruction taken up keeps the invariant at either grain (log 2). -/
theorem takeUp_keeps {i : Instr} {s t : State} (h : BlockInv s) (ht : takeUp i s = .next t) : BlockInv t := by
  unfold takeUp at ht
  split at ht
  · exact issue_keeps h ht
  · exact exec_keeps h ht

/-- A transmit Word that is no row of the table keeps the invariant too (R71). -/
theorem takeUpWord_keeps {w : Word} {s : State} (h : BlockInv s) (hs : s.stalled = false) (hr : s.running = none)
    (hw : s.inWord = none) : BlockInv (takeUpWord w s) := by
  unfold takeUpWord
  split
  · exact startWord_keeps h hs hr hw
  · exact (sendWord_reaches hs hr).keeps (startWord_keeps h hs hr hw)

/-- The requests of the host are no part of the invariant. -/
theorem BlockInv.of_requests {s : State} (h : BlockInv s) (bs : List Byte) : BlockInv { s with requests := bs } := by
  obtain ⟨h1, h2, h3, h4, h5, h6, h7, h8⟩ := h
  exact ⟨h1, h2, h3, h4, h5, h6, h7, h8⟩

/-- What the machine finds to do when no operation is in progress: nothing, no request, a transmit Word that is no row,
or an instruction, only requests being taken. -/
theorem fetch_of_rest {s : State} (hs : s.stalled = false) (hr : s.running = none) :
    fetch s = .idle ∨ (∃ e, fetch s = .bad e) ∨ (∃ w, fetch s = .rawWord w ∧ s.inWord = none) ∨
      ∃ i bs, fetch s = .run i { s with requests := bs } := by
  unfold fetch
  rw [if_neg (by simp [hs]), if_neg (by simp [hr])]
  split
  · exact .inr (.inr (.inr ⟨_, s.requests, rfl⟩))
  next hw =>
    split
    · unfold fetchTx
      split
      · exact .inr (.inr (.inr ⟨_, s.requests, rfl⟩))
      · exact .inr (.inr (.inl ⟨_, rfl, hw⟩))
    · unfold fetchRequest
      split
      · exact .inl rfl
      · split
        · exact .inr (.inr (.inr ⟨_, _, rfl⟩))
        · exact .inr (.inl ⟨_, rfl⟩)

/-- With nothing in progress, a step waits, or takes up a request or a Word of the open frame. -/
theorem step_rest_keeps {s t : State} (h : BlockInv s) (hs : s.stalled = false) (hr : s.running = none)
    (hst : step s = .next t) : BlockInv t := by
  unfold step at hst
  rcases fetch_of_rest hs hr with hf | ⟨e, hf⟩ | ⟨w, hf, hw⟩ | ⟨i, bs, hf⟩ <;> rw [hf] at hst
  · cases hst
    exact h
  · cases hst
  · cases hst
    exact takeUpWord_keeps h hs hr hw
  · exact takeUp_keeps (h.of_requests bs) hst

/-- Settles O3: a step makes the next step of the operation in progress, or finds nothing in progress; a stalled machine
makes none. -/
theorem everyStepKeepsTheInvariant : Obligations.EveryStepKeepsTheInvariant := by
  intro s t h hst
  cases hs : s.stalled with
  | true => simp [step, fetch, hs] at hst
  | false =>
    cases hr : s.running with
    | none => exact step_rest_keeps h hs hr hst
    | some r => exact step_running_keeps h (by simp [hr]) hst

end Sys2Proof.Machine
end

section
/-! Settles `TransmittedWordOpensAFrame`, `ReceivedWordIsStoredAndRead`, `ClkinHasNoEffect` and
`ClockRatesAreWrittenOnlyByTheirSetters`. That nothing reads `CLKIN_HZ` is a property which composition keeps
(`BlindReply.bind`), so it holds of `exec` because it holds of the two primitives; that only the setter writes `CLKIN_HZ`
follows from it. `SCLK_HZ` is read by every `BusConfigure`, so its frame is followed through the ends of an operation. -/

namespace Sys2Proof.Machine

/-! ## The rows of the wire -/

/-- The meaning of a transmitted row is its Word of the opcode table, sent (R56 to R59). -/
theorem exec_of_txRow {i : Instr} {t : Word} (h : txRow i = some t) : exec i = txWord t := by
  cases i
  case null | rreg | wreg | wdata => cases h; rfl
  all_goals cases h

/-- The meaning of a received row is its Word of the opcode table, received (R61 to R63). -/
theorem exec_of_rxRow {i : Instr} {w : Word} (h : rxRow i = some w) : exec i = rxWord w := by
  cases i
  case wack | rdata | status | chdata | crc => cases h; rfl
  all_goals cases h

/-- An instruction that is no host operation is one of the table's nine wire rows (R70). -/
theorem row_of_word {i : Instr} (hi : isHostOp i = false) : (∃ t, txRow i = some t) ∨ ∃ w, rxRow i = some w := by
  cases i
  case null | rreg | wreg | wdata => exact .inl ⟨_, rfl⟩
  case wack | rdata | status | chdata | crc => exact .inr ⟨_, rfl⟩
  all_goals cases hi

theorem txWord_next {t : Word} {s : State} (he : s.engaged = false) (hw : s.inWord = none) :
    txWord t s = .next (sendWord t s) := by
  simp only [txWord, he, hw, Option.isSome_none, Bool.false_eq_true, if_false]

theorem txWord_ok {t : Word} {s u : State} (h : txWord t s = .next u) : u = sendWord t s := by
  unfold txWord at h
  split at h
  · cases h
  · split at h <;> cases h
    rfl

theorem rxWord_next {w w' : Word} {j : Fin 6} {s : State} (he : s.engaged = false) (hw : s.inWord = some (j, w')) :
    rxWord w s = .next (receiveWord j w s) := by
  simp only [rxWord, he, hw, Bool.false_eq_true, if_false]

theorem rxWord_ok {w : Word} {s u : State} (h : rxWord w s = .next u) : ∃ j, u = receiveWord j w s := by
  unfold rxWord at h
  split at h
  · cases h
  · split at h <;> cases h
    exact ⟨_, rfl⟩

/-- A Word that is not the last is stored and read, and nothing else happens (R76). -/
theorem receiveWord_of_ne {j : Fin 6} {w : Word} {s : State} (hj : j ≠ 5) :
    receiveWord j w s = { storeWord j w s with inWord := none } := if_neg hj

/-- What the decoders make of a Word that is not the CRC Word (R54). -/
theorem readingOf_of_ne {j : Fin 6} {p : Pend} {w : Word} (hj : j ≠ 5) :
    readingOf j p w = if j = 0 then .resp (correlate p w) else .sample (decode24 w) := by
  simp only [readingOf, hj, if_false]

/-- Where no frame is open and the bus is granted, the scope is opened with all six transmit Words loaded (R14, R77). -/
theorem wordScope_listed {t : Word} {s : State} {rest : List Answer} (hsel : s.sel = false)
    (ha : s.answers = .ok :: rest) : wordScope t s = .done () { s with
      tx := cmdFrame t, response := none, answers := rest, calls := s.calls + 1, frameNo := 1, busHeld := true,
      sel := true, seq := ⟨0, 0⟩,
      trace := s.trace ++ [.busConfigure s.sclkHz .msbFirst Config.busMode .ok, .selAssert] } := by
  have hopen := openFrame_listed (s := { beginOp s with tx := cmdFrame t }) ha
  rw [wordScope, if_neg (by simp [hsel])]
  exact hopen

/-- Settles O34: the scope opens in the first answer, and the Word is sent in the next three. -/
theorem transmittedWordOpensAFrame : Obligations.TransmittedWordOpensAFrame := by
  intro i t r rest s hi hb ha
  obtain ⟨hst, hsel, hw, hr⟩ := (busy_eq_false s).1 hb
  rw [exec_of_txRow hi, txWord_next ((engaged_eq_false s).2 ⟨hst, hr⟩) hw, sendWord, wordScope_listed hsel ha, bind_done,
    xferWord_listed rfl, bind_done, finish_done]
  simp only [seq_after_word, List.append_assoc]
  rfl

/-- Settles O35: an index other than 5 leaves the frame open. -/
theorem receivedWordIsStoredAndRead : Obligations.ReceivedWordIsStoredAndRead := by
  intro i w w' j s hi hst hr hw hj
  rw [exec_of_rxRow hi, rxWord_next ((engaged_eq_false s).2 ⟨hst, hr⟩) hw, receiveWord_of_ne hj, storeWord,
    readingOf_of_ne hj]

/-! ## Functions that do not read `CLKIN_HZ` (R19) -/

/-- The state with another value in `CLKIN_HZ`. -/
def State.withClkin (c : Hz) (s : State) : State := { s with clkinHz := c }

/-- A reply with its state changed by `f`. -/
def Reply.mapState {α : Type} (f : State → State) (r : Reply α) : Reply α :=
  match r with
  | .done a s => .done a (f s)
  | .fault e s => .fault e (f s)
  | .stall s => .stall (f s)

/-- The function does the same whatever `CLKIN_HZ` holds, and leaves it there. -/
def BlindUpdate (g : State → State) : Prop := ∀ c s, g (s.withClkin c) = (g s).withClkin c

/-- The same of a function that calls the serial port. -/
def BlindReply {α : Type} (f : State → Reply α) : Prop :=
  ∀ c s, f (s.withClkin c) = (f s).mapState (State.withClkin c)

/-- The same of the meaning of an instruction. -/
def BlindOutcome (f : State → Host.Outcome State Fault Refusal) : Prop :=
  ∀ c s, f (s.withClkin c) = mapNext (State.withClkin c) (f s)

theorem BlindReply.comp {α : Type} {f : State → Reply α} {g : State → State} (hf : BlindReply f) (hg : BlindUpdate g) :
    BlindReply fun s => f (g s) := fun c s => (congrArg f (hg c s)).trans (hf c (g s))

/-- The rule of composition: neither of two functions reads `CLKIN_HZ`, so the one after the other does not. -/
theorem BlindReply.bind {α β : Type} {f : State → Reply α} {g : α → State → Reply β} (hf : BlindReply f)
    (hg : ∀ a, BlindReply (g a)) : BlindReply fun s => (f s).bind g := by
  intro c s
  simp only [hf c s]
  cases f s with
  | done a u => exact hg a c u
  | fault e u => rfl
  | stall u => rfl

theorem raiseTransportFault_blind (e : TErr) (mk : Nat → Result) (n : Nat) :
    BlindUpdate (raiseTransportFault e mk n) := by
  intro c s
  have hsel : (s.withClkin c).sel = s.sel := rfl
  unfold raiseTransportFault faultExit
  rw [hsel]
  split <;> rfl

/-- The end of an operation: the fault exit and the stall do not read `CLKIN_HZ` either. -/
theorem BlindReply.finish {α : Type} {f : State → Reply α} {mk : Nat → Result} {n : Nat} {k : α → State → State}
    (hf : BlindReply f) (hk : ∀ a, BlindUpdate (k a)) : BlindUpdate fun s => Machine.finish (f s) mk n k := by
  intro c s
  simp only [hf c s]
  cases f s with
  | done a u => exact hk a c u
  | fault e u => exact raiseTransportFault_blind e mk n c u
  | stall u => rfl

theorem hostOp_blind {run : State → State} (hrun : BlindUpdate run) : BlindOutcome (hostOp run) := by
  intro c s
  have hbusy : (s.withClkin c).busy = s.busy := rfl
  unfold hostOp
  rw [hbusy]
  split
  · rfl
  · exact congrArg Host.Outcome.next (hrun c (beginOp s))

/-! ## The serial port and the frame -/

theorem busConfigure_blind : BlindReply busConfigure := by
  intro c s
  have hans : nextAnswer (s.withClkin c) = nextAnswer s := rfl
  unfold busConfigure
  rw [hans]
  cases nextAnswer s <;> rfl

theorem xferByte_blind (o : Byte) : BlindReply (xferByte o) := by
  intro c s
  have hans : nextAnswer (s.withClkin c) = nextAnswer s := rfl
  unfold xferByte
  rw [hans]
  cases nextAnswer s <;> rfl

theorem xferWord_blind (t : Word) : BlindReply (xferWord t) :=
  (xferByte_blind _).bind fun _ => (xferByte_blind _).bind fun _ => (xferByte_blind _).bind fun _ _ _ => rfl

theorem openFrame_blind : BlindReply openFrame :=
  (busConfigure_blind.comp fun _ _ => rfl).bind fun _ _ _ => rfl

theorem xferWords_blind (is : List (Fin 6)) : BlindReply (xferWords is) := by
  induction is with
  | nil => exact fun _ _ => rfl
  | cons i is ih =>
    intro c s
    exact (xferWord_blind s.tx[i]).bind (fun r => ih.comp (g := storeWord i r) fun _ _ => rfl) c s

theorem xchg6_blind (tx : Frame) : BlindReply (xchg6 tx) :=
  (openFrame_blind.comp fun _ _ => rfl).bind fun _ => (xferWords_blind wordIndices).bind fun _ _ _ => rfl

theorem frame_blind (tx : Frame) : BlindReply (frame tx) := (xchg6_blind tx).bind fun _ _ _ => rfl

/-! ## The parts of the host operations -/

theorem sendCommandFrame_blind (k : CmdKind) (a : Addr) (v : RegVal) : BlindReply (sendCommandFrame k a v) :=
  (frame_blind _).bind fun _ _ _ => rfl

theorem readRegFrames_blind (a : Addr) : BlindReply (readRegFrames a) :=
  (sendCommandFrame_blind _ _ _).bind fun _ => (frame_blind _).bind fun _ _ _ => rfl

theorem writeRegFrames_blind (a : Addr) (v : RegVal) : BlindReply (writeRegFrames a v) :=
  (sendCommandFrame_blind _ _ _).bind fun _ => (frame_blind _).bind fun _ _ _ => rfl

theorem chopFrames_blind (en : Bool) (d : BitVec 5) : BlindReply (chopFrames en d) :=
  (readRegFrames_blind _).bind fun _ => writeRegFrames_blind _ _

theorem writeRegOp_blind (a : Addr) (v : RegVal) : BlindUpdate (writeRegOp a v) :=
  (writeRegFrames_blind a v).finish fun _ _ _ => rfl

/-! ## The Words of the wire -/

theorem wordScope_blind (t : Word) : BlindReply (wordScope t) := by
  intro c s
  have hsel : (s.withClkin c).sel = s.sel := rfl
  have hopen : BlindReply fun s => openFrame { beginOp s with tx := cmdFrame t } :=
    openFrame_blind.comp fun _ _ => rfl
  unfold wordScope
  rw [hsel]
  split
  · rfl
  · exact hopen c s

theorem sendWord_blind (t : Word) : BlindUpdate (sendWord t) := by
  refine ((wordScope_blind t).bind fun _ => ?_).finish fun _ _ _ => rfl
  intro c s
  have hload : BlindUpdate fun s => { s with tx := s.tx.set s.seq.w t } := fun _ _ => rfl
  exact ((xferWord_blind t).comp hload).bind (g := fun r u => .done (s.seq.w, r) u) (fun _ _ _ => rfl) c s

theorem receiveWord_blind (j : Fin 6) (w : Word) : BlindUpdate (receiveWord j w) := by
  intro c s
  unfold receiveWord
  split <;> rfl

theorem txWord_blind (t : Word) : BlindOutcome (txWord t) := by
  intro c s
  have hengaged : (s.withClkin c).engaged = s.engaged := rfl
  have hword : (s.withClkin c).inWord = s.inWord := rfl
  unfold txWord
  rw [hengaged, hword]
  split
  · rfl
  · split
    · rfl
    · exact congrArg Host.Outcome.next (sendWord_blind t c s)

theorem rxWord_blind (w : Word) : BlindOutcome (rxWord w) := by
  intro c s
  have hengaged : (s.withClkin c).engaged = s.engaged := rfl
  have hword : (s.withClkin c).inWord = s.inWord := rfl
  unfold rxWord
  rw [hengaged, hword]
  split
  · rfl
  · cases s.inWord with
    | none => rfl
    | some x => exact congrArg Host.Outcome.next (receiveWord_blind x.1 w c s)

/-! ## Every instruction but the setter of `CLKIN_HZ` -/

theorem exec_blind_of_hostOp {i : Instr} (hi : isHostOp i = true) (hne : ∀ hz, i ≠ .setClkin hz) :
    BlindOutcome (exec i) := by
  cases i
  case xchgFrame cmd => exact hostOp_blind ((frame_blind _).finish fun _ _ _ => rfl)
  case sendCommand k a v => exact hostOp_blind ((sendCommandFrame_blind k a v).finish fun _ _ _ => rfl)
  case fetchResponse | readChannels | readChannelSingle =>
    exact hostOp_blind ((frame_blind _).finish fun _ _ _ => rfl)
  case readReg a => exact hostOp_blind ((readRegFrames_blind a).finish fun _ _ _ => rfl)
  case writeReg | setGain => exact hostOp_blind (writeRegOp_blind _ _)
  case globalChop en d =>
    intro c s
    show execGlobalChop en d _ = mapNext _ (execGlobalChop en d s)
    unfold execGlobalChop
    split
    · exact hostOp_blind ((chopFrames_blind en d).finish fun _ _ _ => rfl) c s
    · rfl
  case setSclk hz => exact hostOp_blind (run := fun s => deliver .none .none { s with sclkHz := hz }) fun _ _ => rfl
  case setClkin hz => exact absurd rfl (hne hz)
  case null | rreg | wreg | wdata | wack | rdata | status | chdata | crc => cases hi

/-- Settles O50: no part of an instruction's meaning reads `CLKIN_HZ`. -/
theorem clkinHasNoEffect : Obligations.ClkinHasNoEffect := by
  intro i s c hne
  have hblind : BlindOutcome (exec i) := by
    cases hi : isHostOp i with
    | true => exact exec_blind_of_hostOp hi hne
    | false =>
      rcases row_of_word hi with ⟨t, ht⟩ | ⟨w, hw⟩
      · rw [exec_of_txRow ht]; exact txWord_blind t
      · rw [exec_of_rxRow hw]; exact rxWord_blind w
  exact hblind c s

/-! ## What writes `CLKIN_HZ` and `SCLK_HZ` (R18, R19) -/

/-- An instruction blind to `CLKIN_HZ` does not write it: with the value it holds put there once more, the next state is
the same. -/
theorem exec_clkinHz {i : Instr} {s t : State} (h : exec i s = .next t) (hne : ∀ hz, i ≠ .setClkin hz) :
    t.clkinHz = s.clkinHz := by
  have hsame : exec i s = mapNext (fun t => { t with clkinHz := s.clkinHz }) (exec i s) :=
    clkinHasNoEffect i s s.clkinHz hne
  rw [h] at hsame
  have ht : t.clkinHz = _ := congrArg State.clkinHz (Host.Outcome.next.inj hsame)
  exact ht

/-- A function that calls the serial port ends with `SCLK_HZ` at `hz`, whichever way it ends. -/
def Reply.EndsAtSclk {α : Type} (hz : Hz) (r : Reply α) : Prop :=
  r.Ends (fun _ u => u.sclkHz = hz) (fun _ u => u.sclkHz = hz) fun u => u.sclkHz = hz

theorem stopped_endsAtSclk {α : Type} {hz : Hz} {x : Stop} {u : State} (h : u.sclkHz = hz) :
    (Reply.stopped x u : Reply α).EndsAtSclk hz := by
  cases x <;> exact h

theorem Reply.EndsAtSclk.bind {α β : Type} {hz : Hz} {r : Reply α} {f : α → State → Reply β} (h : r.EndsAtSclk hz)
    (hf : ∀ a u, u.sclkHz = hz → (f a u).EndsAtSclk hz) : (r.bind f).EndsAtSclk hz := ends_bind h hf

theorem Reply.EndsAtSclk.finish {α : Type} {hz : Hz} {r : Reply α} {mk : Nat → Result} {n : Nat}
    {k : α → State → State} (h : r.EndsAtSclk hz) (hk : ∀ a u, u.sclkHz = hz → (k a u).sclkHz = hz) :
    (Machine.finish r mk n k).sclkHz = hz :=
  finish_ind (P := fun u => u.sclkHz = hz) h hk (fun _ _ hu => (raise_sclkHz _ _ _ _).trans hu) fun _ hu => hu

theorem opStop_sclkHz (x : Stop) (mk : Nat → Result) (n : Nat) (u : State) : (opStop x mk n u).sclkHz = u.sclkHz := by
  cases x <;> simp

theorem frame_stopped_sclkHz {tx : Frame} {x : Stop} {u v : State} (h : frame tx u = .stopped x v) :
    v.sclkHz = u.sclkHz := by
  have hframe : (frame tx u).EndsAtSclk u.sclkHz := by
    rcases frame_ends tx u with ⟨rx, hf⟩ | ⟨x, hf⟩ | ⟨rx, r, rd, k, x, hf⟩ <;> rw [hf]
    · exact afterFrame_sclkHz _ _ _ _
    · exact stopped_endsAtSclk rfl
    · exact stopped_endsAtSclk rfl
  rw [h] at hframe
  cases x <;> exact hframe

theorem Frames.sclkHz {n : Nat} {s t : State} (h : Frames n s t) : t.sclkHz = s.sclkHz := by
  induction h with
  | nil => rfl
  | cons tx rx _ ht _ ih => rw [ht, afterFrame_sclkHz, ih]

theorem OpEnds.sclkHz {i : Instr} {s t : State} (h : OpEnds i s t) : t.sclkHz = s.sclkHz := by
  cases h with
  | done c res u hframes => rw [deliver_sclkHz, hframes.sclkHz]
  | stop m tx x u v mk n _ hframes hstop => rw [opStop_sclkHz, frame_stopped_sclkHz hstop, hframes.sclkHz]

theorem xferByte_endsAtSclk {hz : Hz} {o : Byte} {s : State} (h : s.sclkHz = hz) : (xferByte o s).EndsAtSclk hz := by
  rcases xferByte_ends o s with ⟨b, hx⟩ | ⟨x, hx⟩ <;> rw [hx]
  · exact h
  · exact stopped_endsAtSclk h

theorem xferWord_endsAtSclk {hz : Hz} {t : Word} {s : State} (h : s.sclkHz = hz) : (xferWord t s).EndsAtSclk hz :=
  (xferByte_endsAtSclk h).bind fun _ _ h => (xferByte_endsAtSclk h).bind fun _ _ h =>
    (xferByte_endsAtSclk h).bind fun _ _ h => h

theorem wordScope_endsAtSclk (t : Word) (s : State) : (wordScope t s).EndsAtSclk s.sclkHz := by
  cases hsel : s.sel with
  | true => rw [wordScope_of_sel hsel]; rfl
  | false =>
    rcases wordScope_ends (t := t) hsel with h | ⟨x, h⟩ <;> rw [h]
    · rfl
    · exact stopped_endsAtSclk rfl

theorem sendWord_sclkHz (t : Word) (s : State) : (sendWord t s).sclkHz = s.sclkHz :=
  Reply.EndsAtSclk.finish
    (.bind (wordScope_endsAtSclk t s) fun _ _ h => .bind (xferWord_endsAtSclk h) fun _ _ h => h) fun _ _ h => h

theorem receiveWord_sclkHz (j : Fin 6) (w : Word) (s : State) : (receiveWord j w s).sclkHz = s.sclkHz := by
  unfold receiveWord
  split <;> rfl

/-- The frames and the Words of an instruction keep `SCLK_HZ`, and so do their fault exit and their stall. -/
theorem exec_sclkHz {i : Instr} {s t : State} (h : exec i s = .next t) (hne : ∀ hz, i ≠ .setSclk hz) :
    t.sclkHz = s.sclkHz := by
  cases hi : isHostOp i with
  | true =>
    obtain ⟨-, ⟨hz, hset, -⟩ | ⟨hz, -, rfl⟩ | ⟨-, -, hends⟩⟩ := exec_ends hi h
    · exact absurd hset (hne hz)
    · rfl
    · exact hends.sclkHz
  | false =>
    rcases row_of_word hi with ⟨x, hx⟩ | ⟨w, hw⟩
    · rw [exec_of_txRow hx] at h
      rw [txWord_ok h, sendWord_sclkHz]
    · rw [exec_of_rxRow hw] at h
      obtain ⟨j, rfl⟩ := rxWord_ok h
      exact receiveWord_sclkHz j w s

/-- Settles O49: `SCLK_HZ` by the ends of an operation, `CLKIN_HZ` by `clkinHasNoEffect`. -/
theorem clockRatesAreWrittenOnlyByTheirSetters : Obligations.ClockRatesAreWrittenOnlyByTheirSetters :=
  fun _ _ _ h => ⟨exec_sclkHz h, exec_clkinHz h⟩

end Sys2Proof.Machine
end

section
/-! Settles `TheTraceOnlyGrows`. The second clause is a property of single steps: a step is at most one primitive
(`act_trace`), and accepting an instruction or a Word is none (`issue_trace`, `startWord_trace`). The first follows from
it, since an instruction run whole reaches the state its steps reach (`PrimitiveStepsMakeTheOperation`). -/

namespace Sys2Proof.Machine

/-! ## One step -/

/-- The wire trace of `t` is that of `s` with at most one event more. -/
def AtMostOneEvent (s t : State) : Prop := t.trace = s.trace ∨ ∃ e, t.trace = s.trace ++ [e]

theorem AtMostOneEvent.trace_grows {s t : State} (h : AtMostOneEvent s t) : s.trace <+: t.trace := by
  rcases h with h | ⟨e, h⟩ <;> rw [h]
  exact ⟨[e], rfl⟩

/-- A machine that makes a step has no primitive hanging (R80). -/
theorem stalled_of_step {s t : State} (hst : step s = .next t) : s.stalled = false := by
  cases hs : s.stalled with
  | true => simp [step, fetch, hs] at hst
  | false => rfl

theorem tick_atMostOneEvent (s : State) : AtMostOneEvent s (tick s) := by
  unfold tick
  split
  · exact .inl rfl
  · split
    · exact .inl rfl
    · exact act_trace _ _ s

/-- A step that goes on with an operation in progress makes at most one event, at either grain (R8). -/
theorem step_running_atMostOneEvent {s t : State} (hr : s.running.isSome = true) (hst : step s = .next t) :
    AtMostOneEvent s t := by
  obtain ⟨r, hr⟩ := Option.isSome_iff_exists.1 hr
  rw [step_going (stalled_of_step hst) hr] at hst
  cases hst
  exact tick_atMostOneEvent s

/-- At the grain `primitive` a step with nothing in progress makes no event: it waits, or accepts a request or a Word
whose first primitive is still to come (R8, R147). -/
theorem step_rest_trace {s t : State} (hr : s.running = none) (hg : s.grain = .primitive) (hst : step s = .next t) :
    t.trace = s.trace := by
  have hs := stalled_of_step hst
  unfold step at hst
  rcases fetch_of_rest hs hr with hf | ⟨e, hf⟩ | ⟨w, hf, -⟩ | ⟨i, bs, hf⟩ <;> rw [hf] at hst
  · cases hst
    rfl
  · cases hst
  · cases hst
    rw [takeUpWord, hg]
    exact startWord_trace w s
  · simp only [takeUp, hg] at hst
    have ht : t.trace = _ := issue_trace hst
    exact ht

/-! ## Whole instructions -/

/-- A run of steps, an operation being in progress before each, only adds to the trace. -/
theorem Steps.trace_grows {n : Nat} {u t : State} (h : Steps n u t) : u.trace <+: t.trace := by
  induction n generalizing u with
  | zero => cases h.1; rfl
  | succ n ih =>
    obtain ⟨hr, v, hv, hn⟩ := h.uncons
    exact (step_running_atMostOneEvent hr hv).trace_grows.trans (ih hn)

/-- An instruction run whole only adds to the trace: accepting it makes no event, and its steps take none back. -/
theorem exec_trace_grows {i : Instr} {s t : State} (he : exec i s = .next t) : s.trace <+: t.trace := by
  obtain ⟨-, u, n, -, htrace, -, -, hn, hbefore, -⟩ := (primitiveStepsMakeTheOperation i s).1 t he
  rw [← htrace]
  exact Steps.trace_grows ⟨hn, hbefore⟩

/-- Settles O46: an operation in progress makes its next step; at the grain `primitive` nothing else makes an event. -/
theorem theTraceOnlyGrows : Obligations.TheTraceOnlyGrows := by
  refine ⟨fun _ _ _ => exec_trace_grows, fun s t hcase hst => ?_⟩
  cases hr : s.running with
  | some r => exact step_running_atMostOneEvent (by simp [hr]) hst
  | none =>
    have hg : s.grain = .primitive := hcase.resolve_left (by simp [hr])
    exact .inl (step_rest_trace hr hg hst)

end Sys2Proof.Machine
end

section
/-! Settles `DecodeOfEncodeIsTheInstruction`, `DecodedBytesAreTheEncoding` and `WrittenOutWordsDecode`. What the decoder
accepts is said once, as an equivalence: of an operand byte, of a Word at each place of a frame, and of the bytes at a
slot (`decodeAt_eq_ok`), whose two directions are the two round trips. -/

namespace Sys2Proof

/-! ## Operands as bytes -/

theorem exceptBind_eq_ok {ε α β : Type} {x : Except ε α} {f : α → Except ε β} {b : β} :
    (x >>= f) = .ok b ↔ ∃ a, x = .ok a ∧ f a = .ok b := by
  cases x <;> simp [bind, Except.bind]

/-- An operand byte that is accepted is the operand, zero-extended: no bit of the byte is dropped (R12). -/
theorem operandByte_eq_ok {n : Nat} {e : DecodeError} {b : Byte} {v : BitVec n} (hn : n ≤ 8) :
    operandByte n e b = .ok v ↔ b = v.setWidth 8 := by
  unfold operandByte
  split
  next hb =>
    rw [Except.ok.injEq]
    constructor
    · rintro rfl
      apply BitVec.eq_of_toNat_eq
      simp [Nat.mod_eq_of_lt hb, Nat.mod_eq_of_lt b.isLt]
    · rintro rfl
      exact (BitVec.setWidth_setWidth_of_le v hn).trans v.setWidth_eq
  next hb =>
    refine iff_of_false (by simp) fun h => hb ?_
    rw [h, BitVec.toNat_setWidth]
    exact (Nat.mod_le _ _).trans_lt v.isLt

theorem boolByte_inj {a b : Bool} : boolByte a = boolByte b ↔ a = b := by cases a <;> cases b <;> decide

theorem flagByte_eq_ok {b : Byte} {f : Bool} : flagByte b = .ok f ↔ b = boolByte f := by
  unfold flagByte
  split
  next h => subst h; cases f <;> simp [boolByte]
  next h0 =>
    split
    next h => subst h; cases f <;> simp [boolByte]
    next h1 => cases f <;> simpa [boolByte]

theorem wordBytes_bytesWord (b2 b1 b0 : Byte) : wordBytes (bytesWord b2 b1 b0) = [b2, b1, b0] := by
  simp [wordBytes]

theorem regBytes_bytesReg (b1 b0 : Byte) : regBytes (bytesReg b1 b0) = [b1, b0] := by
  have h1 : (bytesReg b1 b0).extractLsb' 8 8 = b1 := by
    ext i hi
    simp [bytesReg, hi, show 8 + i < 16 by omega]
  have h0 : (bytesReg b1 b0).extractLsb' 0 8 = b0 := by
    ext i hi
    simp [bytesReg, hi, show i < 16 by omega]
  rw [regBytes, h1, h0]

theorem bytesReg_extractLsb' (v : RegVal) : bytesReg (v.extractLsb' 8 8) (v.extractLsb' 0 8) = v := by
  ext i hi
  simp only [bytesReg]
  grind

theorem hzBytes_bytesHz (b3 b2 b1 b0 : Byte) : hzBytes (bytesHz b3 b2 b1 b0) = [b3, b2, b1, b0] := by
  simp only [hzBytes, List.cons.injEq, and_true]
  refine ⟨?_, ?_, ?_, ?_⟩
  · ext i hi; grind [bytesHz]
  · ext i hi; grind [bytesHz]
  · ext i hi; grind [bytesHz]
  · ext i hi; grind [bytesHz]

theorem bytesHz_extractLsb' (v : Hz) :
    bytesHz (v.extractLsb' 24 8) (v.extractLsb' 16 8) (v.extractLsb' 8 8) (v.extractLsb' 0 8) = v := by
  ext i hi
  grind [bytesHz]

/-- A channel index and the byte that carries it: `0x80 + c` is never the ending zero byte, and gives `c` back. -/
theorem chanByte_facts (c : Chan) :
    chanByte c ≠ 0 ∧ 0x80 ≤ (chanByte c).toNat ∧ (chanByte c).toNat < 0x84 ∧ (chanByte c).setWidth 2 = c := by
  revert c; decide

/-- A byte from `0x80` to `0x83` carries its two low bits. -/
theorem chanByte_setWidth {b : Byte} (hlo : 0x80 ≤ b.toNat) (hhi : b.toNat < 0x84) : chanByte (b.setWidth 2) = b := by
  revert b; decide

/-- The indices of `READ_CHANNELS` are read up to their ending zero byte. -/
theorem decodeChans_map_chanByte (cs : List Chan) (rest : List Byte) :
    decodeChans (cs.map chanByte ++ 0 :: rest) = .ok (cs, rest) := by
  induction cs with
  | nil => rfl
  | cons c cs ih =>
    obtain ⟨hne, hlo, hhi, hc⟩ := chanByte_facts c
    rw [List.map_cons, List.cons_append, decodeChans, if_neg hne, if_pos ⟨hlo, hhi⟩, ih, hc]

/-- Every byte the index decoder takes is an index byte or the ending zero byte. -/
theorem eq_of_decodeChans {bs rest : List Byte} {cs : List Chan} (h : decodeChans bs = .ok (cs, rest)) :
    bs = cs.map chanByte ++ 0 :: rest := by
  induction bs generalizing cs with
  | nil => cases h
  | cons b bs ih =>
    rw [decodeChans] at h
    split at h
    next hb => cases h; rw [hb]; rfl
    next =>
      split at h
      next hr =>
        split at h <;> cases h
        next hcs => rw [List.map_cons, List.cons_append, chanByte_setWidth hr.1 hr.2, ← ih hcs]
      next => cases h

/-! ## Host requests -/

/-- The operations a selector names, read back from their encoding (R69). -/
theorem decodeRequest_encode {i : Instr} (hi : Machine.isHostOp i = true) (rest : List Byte) :
    decodeRequest (encode i ++ rest) = .ok (i, rest) := by
  cases i
  case null | rreg | wreg | wdata | wack | rdata | status | chdata | crc => cases hi
  case readChannels idx =>
    show decodeOperands 3 (idx.map chanByte ++ [0] ++ rest) = _
    rw [List.append_assoc, decodeOperands]
    exact exceptBind_eq_ok.2 ⟨_, decodeChans_map_chanByte idx rest, rfl⟩
  case xchgFrame cmd =>
    show Except.ok (Instr.xchgFrame (bytesWord _ _ _), rest) = _
    rw [bytesWord_wordByte]
  case fetchResponse => rfl
  case setSclk hz =>
    show Except.ok (Instr.setSclk (bytesHz _ _ _ _), rest) = _
    rw [bytesHz_extractLsb']
  case setClkin hz =>
    show Except.ok (Instr.setClkin (bytesHz _ _ _ _), rest) = _
    rw [bytesHz_extractLsb']
  case sendCommand k a v =>
    have hflag : cmdKindByte k = boolByte (k == .wreg) := by cases k <;> rfl
    have hkind : (if k = .wreg then CmdKind.wreg else .rreg) = k := by cases k <;> rfl
    simp [decodeRequest, encode, decodeOperands, exceptBind_eq_ok, operandByte_eq_ok, flagByte_eq_ok, boolByte_inj,
      regBytes, bytesReg_extractLsb', hflag, hkind]
  case readChannelSingle | readReg | writeReg | setGain | globalChop =>
    simp [decodeRequest, encode, decodeOperands, exceptBind_eq_ok, operandByte_eq_ok, flagByte_eq_ok, boolByte_inj,
      regBytes, bytesReg_extractLsb']

/-- An accepted request is the encoding of a host operation: the cases are the selectors, 0 to 10 and then the reserved
ones (R69, R71). -/
theorem eq_encode_of_decodeRequest {bs rest : List Byte} {i : Instr}
    (h : decodeRequest bs = .ok (i, rest)) : Machine.isHostOp i = true ∧ bs = encode i ++ rest := by
  cases bs with
  | nil => cases h
  | cons op bs =>
    have hop : op = BitVec.ofNat 8 op.toNat := by simp
    rw [decodeRequest] at h
    unfold decodeOperands at h
    split at h
    case h_12 => split at h <;> cases h
    all_goals
      rename_i heq
      rw [heq] at hop
      subst hop
      simp only [exceptBind_eq_ok, Except.ok.injEq, Prod.mk.injEq, operandByte_eq_ok, flagByte_eq_ok,
        Nat.reduceLeDiff] at h
    case h_1 => obtain ⟨rfl, rfl⟩ := h; exact ⟨rfl, by simp [encode, wordBytes_bytesWord]⟩
    case h_2 =>
      obtain ⟨k, rfl, a, rfl, rfl, rfl⟩ := h
      exact ⟨rfl, by cases k <;> simp [encode, regBytes_bytesReg, cmdKindByte, boolByte]⟩
    case h_3 => obtain ⟨rfl, rfl⟩ := h; exact ⟨rfl, rfl⟩
    case h_4 =>
      obtain ⟨⟨idx, bs⟩, hidx, rfl, rfl⟩ := h
      exact ⟨rfl, by simp [encode, eq_of_decodeChans hidx]⟩
    case h_5 | h_6 => obtain ⟨x, rfl, rfl, rfl⟩ := h; exact ⟨rfl, rfl⟩
    case h_7 =>
      obtain ⟨a, rfl, rfl, rfl⟩ := h
      exact ⟨rfl, by simp [encode, regBytes_bytesReg]⟩
    case h_8 => obtain ⟨g0, rfl, g1, rfl, g2, rfl, g3, rfl, rfl, rfl⟩ := h; exact ⟨rfl, rfl⟩
    case h_9 => obtain ⟨en, rfl, d, rfl, rfl, rfl⟩ := h; exact ⟨rfl, rfl⟩
    case h_10 | h_11 => obtain ⟨rfl, rfl⟩ := h; exact ⟨rfl, by simp [encode, hzBytes_bytesHz]⟩

/-! ## Words of the wire -/

/-- A transmitted Word is the row that is read at its place and whose Word it is: bits alone do not tell (R53, R70). -/
theorem decodeTx_eq_some {j : Fin 6} {cmd w : Word} {i : Instr} :
    decodeTx j cmd w = some i ↔ fits (.tx j cmd) i = true ∧ wireWord i = some w := by
  constructor
  · intro h
    obtain ⟨hnull, hrreg, hwreg⟩ := eq_of_kindOf w
    unfold decodeTx at h
    split at h
    next hj =>
      subst hj
      split at h <;> cases h
      next hk => exact ⟨rfl, congrArg some (hnull hk).symm⟩
      next hk => exact ⟨rfl, congrArg some (hrreg hk).symm⟩
      next hk => exact ⟨rfl, congrArg some (hwreg hk).symm⟩
    next hj =>
      split at h
      next h1 =>
        split at h <;> cases h
        next hpad =>
          refine ⟨by simp [fits, h1], ?_⟩
          rw [wireWord, wdataWord_eq, ← hpad, rdataWord_fields]
      next h1 =>
        split at h <;> cases h
        next hw => exact ⟨by simpa [fits, hj, imp_iff_not_or] using h1, congrArg some hw.symm⟩
  · rintro ⟨hfits, hw⟩
    cases i <;> cases hw <;> simp [fits] at hfits
    case null.refl =>
      simp only [decodeTx, kindOf_nullWord, if_true]
      split
      · rfl
      · rw [if_neg (by tauto)]
    case rreg.refl => subst hfits; simp [decodeTx]
    case wreg.refl => subst hfits; simp [decodeTx]
    case wdata.refl => simp [decodeTx, hfits]

/-- A received Word is the one row that is read at its place and whose Word it is (R54, R71). -/
theorem decodeRx_eq {j : Fin 6} {k : Kind} {w : Word} {i : Instr} :
    decodeRx j k w = i ↔ fits (.rx j k) i = true ∧ wireWord i = some w := by
  constructor
  · rintro rfl
    unfold decodeRx
    split
    next hj =>
      subst hj
      cases k
      case none | other => exact ⟨rfl, rfl⟩
      case rreg => exact ⟨rfl, by rw [wireWord, rdataWord_fields]⟩
      case wreg =>
        dsimp only
        split
        next hp => exact ⟨rfl, congrArg some (eq_cmdWord_of_hasPrefix w _ hp).symm⟩
        next hp => exact ⟨by simpa [fits] using hp, rfl⟩
    next h0 =>
      split
      next h5 => exact ⟨by simpa [fits] using h5, rfl⟩
      next h5 => exact ⟨by simpa [fits] using ⟨h0, h5⟩, rfl⟩
  · rintro ⟨hfits, hw⟩
    cases i <;> cases hw <;> simp [fits] at hfits
    case wack.refl => obtain ⟨rfl, rfl⟩ := hfits; simp [decodeRx]
    case rdata.refl => obtain ⟨rfl, rfl⟩ := hfits; simp [decodeRx]
    case status.refl =>
      obtain ⟨rfl, (rfl | rfl) | ⟨rfl, hp⟩⟩ := hfits
      · rfl
      · rfl
      · simp [decodeRx, hp]
    case chdata.refl => simp [decodeRx, hfits]
    case crc.refl => subst hfits; rfl

/-! ## The decoder -/

/-- At the host port the rows that are read are the host operations (R68). -/
theorem fits_request (i : Instr) : fits .request i = Machine.isHostOp i := by cases i <;> rfl

/-- At a place of a frame the rows that are read are Words of the wire (R53, R54). -/
theorem exists_wireWord_of_fits {slot : Slot} {i : Instr} (h : fits slot i = true) (hs : slot ≠ .request) :
    ∃ w, wireWord i = some w := by
  cases slot
  case request => exact absurd rfl hs
  case tx | rx =>
    cases i
    case null | rreg | wreg | wdata | wack | rdata | status | chdata | crc => exact ⟨_, rfl⟩
    all_goals cases h

/-- A Word of the wire is encoded as its three bytes (R52). -/
theorem encode_of_wireWord {i : Instr} {w : Word} (h : wireWord i = some w) : encode i = wordBytes w := by
  cases i <;> cases h <;> rfl

theorem decodeAt_tx_eq_ok {j : Fin 6} {cmd : Word} {bs rest : List Byte} {i : Instr} :
    decodeAt (.tx j cmd) bs = .ok (i, rest) ↔ ∃ w, bs = wordBytes w ++ rest ∧ decodeTx j cmd w = some i := by
  constructor
  · intro h
    match bs, h with
    | _ :: _ :: _ :: _, h =>
      rw [decodeAt] at h
      split at h <;> cases h
      next hw => exact ⟨_, by rw [wordBytes_bytesWord]; rfl, hw⟩
  · rintro ⟨w, rfl, hw⟩
    simp [wordBytes, decodeAt, hw]

theorem decodeAt_rx_eq_ok {j : Fin 6} {k : Kind} {bs rest : List Byte} {i : Instr} :
    decodeAt (.rx j k) bs = .ok (i, rest) ↔ ∃ w, bs = wordBytes w ++ rest ∧ decodeRx j k w = i := by
  constructor
  · intro h
    match bs, h with
    | _ :: _ :: _ :: _, h =>
      cases h
      exact ⟨_, by rw [wordBytes_bytesWord]; rfl, rfl⟩
  · rintro ⟨w, rfl, rfl⟩
    simp [wordBytes, decodeAt]

/-- Both readings of a frame's bytes are the reading of one Word, whose bytes are the instruction's encoding (R52). -/
theorem exists_word_iff_encode {slot : Slot} {bs rest : List Byte} {i : Instr} (hs : slot ≠ .request) :
    (∃ w, bs = wordBytes w ++ rest ∧ fits slot i = true ∧ wireWord i = some w) ↔
      fits slot i = true ∧ bs = encode i ++ rest := by
  constructor
  · rintro ⟨w, rfl, hfits, hw⟩
    exact ⟨hfits, by rw [encode_of_wireWord hw]⟩
  · rintro ⟨hfits, rfl⟩
    obtain ⟨w, hw⟩ := exists_wireWord_of_fits hfits hs
    exact ⟨w, by rw [encode_of_wireWord hw], hfits, hw⟩

/-- The decoder accepts exactly the encodings of the instructions that are read at the slot. -/
theorem decodeAt_eq_ok {slot : Slot} {bs rest : List Byte} {i : Instr} :
    decodeAt slot bs = .ok (i, rest) ↔ fits slot i = true ∧ bs = encode i ++ rest := by
  cases slot with
  | request =>
    rw [fits_request]
    refine ⟨eq_encode_of_decodeRequest, ?_⟩
    rintro ⟨hi, rfl⟩
    exact decodeRequest_encode hi rest
  | tx j cmd =>
    simp only [decodeAt_tx_eq_ok, decodeTx_eq_some]
    exact exists_word_iff_encode (by simp)
  | rx j k =>
    simp only [decodeAt_rx_eq_ok, decodeRx_eq]
    exact exists_word_iff_encode (by simp)

/-- Settles O10: one direction of `decodeAt_eq_ok`. -/
theorem decodeOfEncodeIsTheInstruction : Obligations.DecodeOfEncodeIsTheInstruction :=
  fun _ _ _ hfits => decodeAt_eq_ok.2 ⟨hfits, rfl⟩

/-- Settles O11: the other direction of `decodeAt_eq_ok`. -/
theorem decodedBytesAreTheEncoding : Obligations.DecodedBytesAreTheEncoding :=
  fun _ _ _ _ h => decodeAt_eq_ok.1 h

/-- Settles O12: each clause is one run of the decoder. -/
theorem writtenOutWordsDecode : Obligations.WrittenOutWordsDecode :=
  ⟨by decide, by decide, by decide, by decide, by decide, by decide⟩

end Sys2Proof
end

section
/-! Settles `WordsTravelMostSignificantByteFirst`, `TransmittedWordIsSentInAnOpenFrame`, `StepRunsTheDecodedInstruction`,
`ReservedSelectorIsRefused` and `GlobalChopRefusesAnIllegalDelay`. A step is known from what `fetch` finds (`step_of_run`),
and that from the state's own fields. -/

namespace Sys2Proof.Machine

/-! ## Words at the serial port -/

/-- A Word made of three bytes is answered by these bytes (R37). -/
theorem wordAnswers_bytesWord (r2 r1 r0 : Byte) :
    wordAnswers (bytesWord r2 r1 r0) = [.byte r2, .byte r1, .byte r0] := by
  simp [wordAnswers]

theorem wordEvents_bytesWord (t : Word) (r2 r1 r0 : Byte) : wordEvents t (bytesWord r2 r1 r0) =
    [.xferByte (t.extractLsb' 16 8) (.byte r2), .xferByte (t.extractLsb' 8 8) (.byte r1),
      .xferByte (t.extractLsb' 0 8) (.byte r0)] := by
  rw [wordEvents, wordByte_bytesWord_two, wordByte_bytesWord_one, wordByte_bytesWord_zero]
  rfl

/-- Settles O13: the bytes of a Word are its three fields, and a Word exchanged sends them in this order. -/
theorem wordsTravelMostSignificantByteFirst : Obligations.WordsTravelMostSignificantByteFirst := by
  refine ⟨fun _ => rfl, wordBytes_bytesWord, ?_⟩
  intro t r2 r1 r0 rest s ha
  rw [← wordAnswers_bytesWord] at ha
  exact ⟨_, xferWord_listed ha, rfl, by rw [wordEvents_bytesWord]⟩

/-- Settles O33: an open frame is not opened again, and the Word is sent in the next three answers. -/
theorem transmittedWordIsSentInAnOpenFrame : Obligations.TransmittedWordIsSentInAnOpenFrame := by
  intro i t r j rest s hi hst hr hw hsel hq ha
  have hword : xferWord t { s with tx := s.tx.set s.seq.w t } = .done r { s with
      tx := s.tx.set s.seq.w t, answers := rest, calls := s.calls + 3, seq := s.seq.next.next.next,
      trace := s.trace ++ wordEvents t r } := xferWord_listed ha
  rw [exec_of_txRow hi, txWord_next ((engaged_eq_false s).2 ⟨hst, hr⟩) hw, sendWord, wordScope_of_sel hsel, bind_done,
    hword, bind_done, finish_done]
  simp only [hq, seq_after_word]

/-! ## What a step runs -/

/-- A step takes up the instruction it finds, as its grain says (R8, log 2). -/
theorem step_of_run {s s' : State} {i : Instr} (hf : fetch s = .run i s') (hg : s'.grain = s.grain) :
    (s.grain = .operation → step s = exec i s') ∧ (s.grain = .primitive → step s = issue i s') := by
  refine ⟨fun h => ?_, fun h => ?_⟩ <;> simp only [step, hf, takeUp, hg, h]

theorem fetch_request {s : State} (hst : s.stalled = false) (hr : s.running = none) (hw : s.inWord = none)
    (hsel : s.sel = false) : fetch s = fetchRequest s := by
  simp [fetch, hst, hr, hw, hsel]

theorem fetch_tx {s : State} (hst : s.stalled = false) (hr : s.running = none) (hw : s.inWord = none)
    (hsel : s.sel = true) : fetch s = fetchTx s := by
  simp [fetch, hst, hr, hw, hsel]

theorem fetch_rx {s : State} {j : Fin 6} {w : Word} (hst : s.stalled = false) (hr : s.running = none)
    (hw : s.inWord = some (j, w)) : fetch s = .run (decodeRx j s.pend.kind w) s := by
  simp [fetch, hst, hr, hw]

theorem fetchRequest_of_decode {s : State} {i : Instr} {rest : List Byte}
    (h : decodeRequest s.requests = .ok (i, rest)) : fetchRequest s = .run i { s with requests := rest } := by
  unfold fetchRequest
  split
  next hb => rw [hb] at h; cases h
  next hb => rw [← hb, h]

theorem fetchRequest_of_error {s : State} {b : Byte} {bs : List Byte} {e : DecodeError} (hb : s.requests = b :: bs)
    (h : decodeRequest s.requests = .error e) : fetchRequest s = .bad e := by
  rw [hb] at h
  simp only [fetchRequest, hb, h]

/-- Settles O4: one clause for each thing the machine can find to do. -/
theorem stepRunsTheDecodedInstruction : Obligations.StepRunsTheDecodedInstruction := by
  refine ⟨?_, ?_, ?_, ?_, ?_⟩
  · intro s i rest hst hr hw hsel hd
    exact step_of_run ((fetch_request hst hr hw hsel).trans (fetchRequest_of_decode hd)) rfl
  · intro s i hst hr hw hsel hd
    exact step_of_run ((fetch_tx hst hr hw hsel).trans (by simp only [fetchTx, hd])) rfl
  · intro s hst hr hw hsel hd
    have hf : fetch s = .rawWord s.tx[s.seq.w] := (fetch_tx hst hr hw hsel).trans (by simp only [fetchTx, hd])
    refine ⟨fun hg => ?_, fun hg => ?_⟩ <;> simp only [step, hf, takeUpWord, hg]
  · intro s j w hst hr hw
    exact step_of_run (fetch_rx hst hr hw) rfl
  · intro s r a as hst hr has
    exact step_running hst hr has

/-! ## Refusals -/

/-- No operation has a selector from `0x0B` up (R71). -/
theorem decodeOperands_reserved {n : Nat} (hn : 11 ≤ n) (bs : List Byte) :
    decodeOperands n bs = .error .reservedOpsel := by
  unfold decodeOperands
  split
  case h_12 => exact if_neg (by omega)
  all_goals omega

/-- Settles O7: the decoder names the selector, and the step refuses under the same name. -/
theorem reservedSelectorIsRefused : Obligations.ReservedSelectorIsRefused := by
  intro s b bs hst hr hw hsel hreq hb
  have hd : decodeRequest s.requests = .error .reservedOpsel := by
    rw [hreq]
    exact decodeOperands_reserved hb bs
  have hf : fetch s = .bad .reservedOpsel := (fetch_request hst hr hw hsel).trans (fetchRequest_of_error hreq hd)
  simp only [step, hf, refusalOf]

/-- Settles O30: the delay is looked at before anything else. -/
theorem globalChopRefusesAnIllegalDelay : Obligations.GlobalChopRefusesAnIllegalDelay := by
  intro en d s hd
  have hlegal : legalDelay d = false := by
    rw [legalDelay, Bool.and_eq_false_iff, decide_eq_false_iff_not, decide_eq_false_iff_not]
    omega
  rw [exec, execGlobalChop, hlegal]
  rfl

end Sys2Proof.Machine
end

section
/-! Settles `OperationsMakeTheirListedFrames`, `RegisterAccessIsCommandThenFetch` and `DerivedOperationsAreTheirExpansions`.
An operation that ends without a fault made all its frames (`exec_ends`), and each claims the bus once. An expansion runs
the same frames as the operation, but its second part begins with the frame position at 0: a frame does the same wherever
the position stands (`frame_ahead`), and a record puts it back to 0 (log 17). -/

namespace Sys2Proof.Machine

/-! ## Frames that stop -/

theorem stopped_inj {α : Type} {x y : Stop} {u v : State} (h : (Reply.stopped x u : Reply α) = .stopped y v) :
    x = y ∧ u = v := by
  cases x <;> cases y <;> cases h <;> exact ⟨rfl, rfl⟩

theorem done_ne_stopped {α : Type} {a : α} {x : Stop} {u v : State} : Reply.done a u ≠ .stopped x v := by
  cases x <;> exact fun h => nomatch h

/-- A frame that stops was not granted the bus, or is cut at one of its bytes (R79, R80). -/
theorem frame_stopped_cases {tx : Frame} {x : Stop} {u v : State} (h : frame tx u = .stopped x v) :
    v = frameUnclaimed tx x u ∨ ∃ rx r rd k, v = frameCut tx rx r rd k x u := by
  rcases frame_ends tx u with ⟨rx, hf⟩ | ⟨y, hf⟩ | ⟨rx, r, rd, k, y, hf⟩ <;> rw [hf] at h
  · exact absurd h done_ne_stopped
  · obtain ⟨rfl, rfl⟩ := stopped_inj h
    exact .inl rfl
  · obtain ⟨rfl, rfl⟩ := stopped_inj h
    exact .inr ⟨rx, r, rd, k, rfl⟩

/-! ## Claims of the bus (R69, R77) -/

/-- A frame claims the bus once, before its first byte. -/
theorem openEvents_claims (hz : Hz) (tx rx : Frame) : (openEvents hz tx rx).countP isClaim = 1 := rfl

theorem frameEvents_claims (hz : Hz) (tx rx : Frame) : (frameEvents hz tx rx).countP isClaim = 1 := rfl

theorem Frames.claims {n : Nat} {s t : State} (h : Frames n s t) :
    t.trace.countP isClaim = s.trace.countP isClaim + n := by
  induction h with
  | nil => rfl
  | cons tx rx _ ht _ ih => rw [ht, afterFrame_trace, List.countP_append, frameEvents_claims, ih, Nat.add_assoc]

/-- A frame that stops claims the bus at most once. -/
theorem frame_stopped_claims {tx : Frame} {x : Stop} {u v : State} (h : frame tx u = .stopped x v) :
    v.trace.countP isClaim ≤ u.trace.countP isClaim + 1 := by
  rcases frame_stopped_cases h with rfl | ⟨rx, r, rd, k, rfl⟩
  · have hbus : isClaim (.busConfigure u.sclkHz .msbFirst Config.busMode (stopBus x)) = false := by cases x <;> rfl
    simp [frameUnclaimed, State.played, hbus]
  · have htake : ((openEvents u.sclkHz tx rx).take (k.val + 2)).countP isClaim ≤ 1 :=
      (openEvents_claims u.sclkHz tx rx) ▸ (List.take_sublist _ _).countP_le
    have hbyte : isClaim (.xferByte (frameByte tx k) (stopByte x)) = false := rfl
    simp [frameCut, State.inFrame, State.played, cutEvents, hbyte, htake]

theorem frame_stopped_response {tx : Frame} {x : Stop} {u v : State} (h : frame tx u = .stopped x v) :
    v.response = u.response := by
  rcases frame_stopped_cases h with rfl | ⟨rx, r, rd, k, rfl⟩ <;> rfl

theorem Frames.response {n : Nat} {s t : State} (h : Frames n s t) : t.response = s.response := by
  induction h with
  | nil => rfl
  | cons tx rx _ ht _ ih => rw [ht, afterFrame_response, ih]

/-- The fault exit and the stall claim nothing. -/
theorem opStop_claims (x : Stop) (mk : Nat → Result) (n : Nat) (v : State) :
    (opStop x mk n v).trace.countP isClaim = v.trace.countP isClaim := by
  cases x with
  | none => rfl
  | some e =>
    rw [opStop_some, raise_trace, List.countP_append]
    split <;> rfl

/-- An operation that stops and leaves a record ended by a transport fault: a stall leaves none (R12, R80). -/
theorem opStop_cause {x : Stop} {mk : Nat → Result} {n : Nat} {v : State} {r : Response} (hv : v.response = none)
    (hr : (opStop x mk n v).response = some r) : r.cause = .transportFault := by
  cases x with
  | none => rw [opStop_none, hang_response, hv] at hr; cases hr
  | some e => rw [opStop_some, raise_response] at hr; cases hr; rfl

/-- The claims of an operation with frames, by its two ends. -/
theorem OpEnds.claims {i : Instr} {s t : State} {r : Response} (h : OpEnds i s t) (hs : s.response = none)
    (hr : t.response = some r) : t.trace.countP isClaim ≤ s.trace.countP isClaim + framesOf i ∧
      (r.cause ≠ .transportFault → t.trace.countP isClaim = s.trace.countP isClaim + framesOf i) := by
  cases h with
  | done c res u hframes =>
    have hclaims : (deliver c res u).trace.countP isClaim = _ := hframes.claims
    exact ⟨hclaims.le, fun _ => hclaims⟩
  | stop m tx x u v mk n hm hframes hstop =>
    have hstopped := frame_stopped_claims hstop
    rw [hframes.claims] at hstopped
    have hv : v.response = none := (frame_stopped_response hstop).trans (hframes.response.trans hs)
    exact ⟨by rw [opStop_claims]; omega, fun hc => absurd (opStop_cause hv hr) hc⟩

/-- Settles O47: the setters make no event, and any other operation ends as `OpEnds` says. -/
theorem operationsMakeTheirListedFrames : Obligations.OperationsMakeTheirListedFrames := by
  intro i s t r hi he hr
  obtain ⟨-, ⟨hz, rfl, rfl⟩ | ⟨hz, rfl, rfl⟩ | ⟨-, -, hends⟩⟩ := exec_ends hi he
  · exact ⟨le_refl _, fun _ => rfl⟩
  · exact ⟨le_refl _, fun _ => rfl⟩
  · exact hends.claims rfl hr

/-! ## Operations in progress -/

/-- An operation is in progress in `s`: it has no record yet and hangs nowhere (R12, R80). -/
def Pending (s : State) : Prop := s.response = none ∧ s.stalled = false

/-- A part of an operation ends with the operation still in progress, whichever way it ends. -/
def Reply.EndsPending {α : Type} (r : Reply α) : Prop := r.Ends (fun _ u => Pending u) (fun _ u => Pending u) Pending

theorem stopped_endsPending {α : Type} {x : Stop} {u : State} (h : Pending u) :
    (Reply.stopped x u : Reply α).EndsPending := by
  cases x <;> exact h

theorem Reply.EndsPending.bind {α β : Type} {r : Reply α} {f : α → State → Reply β} (h : r.EndsPending)
    (hf : ∀ a u, Pending u → (f a u).EndsPending) : (r.bind f).EndsPending := ends_bind h hf

theorem pending_beginOp {s : State} (hb : s.busy = false) : Pending (beginOp s) :=
  ⟨rfl, ((busy_eq_false s).1 hb).1⟩

theorem frame_endsPending {tx : Frame} {s : State} (h : Pending s) : (frame tx s).EndsPending := by
  rcases frame_ends tx s with ⟨rx, hf⟩ | ⟨x, hf⟩ | ⟨rx, r, rd, k, x, hf⟩ <;> rw [hf]
  · exact h
  · exact stopped_endsPending h
  · exact stopped_endsPending h

theorem sendCommandFrame_endsPending {k : CmdKind} {a : Addr} {v : RegVal} {s : State} (h : Pending s) :
    (sendCommandFrame k a v s).EndsPending := (frame_endsPending h).bind fun _ _ h => h

theorem readRegFrames_endsPending {a : Addr} {s : State} (h : Pending s) : (readRegFrames a s).EndsPending :=
  (sendCommandFrame_endsPending h).bind fun _ _ h => (frame_endsPending h).bind fun _ _ h => h

theorem writeRegFrames_endsPending {a : Addr} {v : RegVal} {s : State} (h : Pending s) :
    (writeRegFrames a v s).EndsPending :=
  (sendCommandFrame_endsPending h).bind fun _ _ h => (frame_endsPending h).bind fun _ _ h => h

/-- A record without a transport's value is delivered by the operation's own end: its frames completed (R11). -/
theorem finish_success {α : Type} {r : Reply α} {mk : Nat → Result} {n : Nat} {k : α → State → State} {c : Cause}
    {res : Result} (h : r.EndsPending) (hrec : (finish r mk n k).response = some ⟨c, none, res⟩) :
    ∃ a u, r = .done a u ∧ Pending u := by
  cases r with
  | done a u => exact ⟨a, u, rfl, h⟩
  | fault e u => rw [finish_fault, raise_response] at hrec; cases hrec
  | stall u => rw [finish_stall, hang_response, h.1] at hrec; cases hrec

/-- A host operation that delivered such a record: it was accepted, its frames completed, and its own end made the
state. -/
theorem hostOp_success {α : Type} {f : State → Reply α} {mk : Nat → Result} {n : Nat} {k : α → State → State}
    {c : Cause} {res : Result} {s t : State} (hf : ∀ u, Pending u → (f u).EndsPending)
    (h : hostOp (fun s => finish (f s) mk n k) s = .next t) (hrec : t.response = some ⟨c, none, res⟩) :
    s.busy = false ∧ ∃ a u, f (beginOp s) = .done a u ∧ Pending u ∧ t = k a u := by
  obtain ⟨hb, rfl⟩ := hostOp_ok h
  obtain ⟨a, u, hdone, hu⟩ := finish_success (hf _ (pending_beginOp hb)) hrec
  exact ⟨hb, a, u, hdone, hu, by rw [hdone, finish_done]⟩

theorem hostOp_done {α : Type} {f : State → Reply α} {mk : Nat → Result} {n : Nat} {k : α → State → State}
    {s u : State} {a : α} (hb : s.busy = false) (hf : f (beginOp s) = .done a u) :
    hostOp (fun s => finish (f s) mk n k) s = .next (k a u) := by
  rw [hostOp_next hb, hf, finish_done]

/-! ## The frame position is not read (R17, log 17) -/

/-- The state with the frame position `n` further. -/
def State.ahead (n : Nat) (s : State) : State := { s with frameNo := s.frameNo + n }

/-- A function that calls the serial port does the same from a frame position `n` further, and ends `n` further. -/
def AheadReply {α : Type} (n : Nat) (f : State → Reply α) : Prop :=
  ∀ s, f (s.ahead n) = (f s).mapState (State.ahead n)

section Ahead
variable {n : Nat}

theorem AheadReply.comp {α : Type} {f : State → Reply α} {g : State → State} (hf : AheadReply n f)
    (hg : ∀ s, g (s.ahead n) = (g s).ahead n) : AheadReply n fun s => f (g s) :=
  fun s => (congrArg f (hg s)).trans (hf (g s))

theorem AheadReply.bind {α β : Type} {f : State → Reply α} {g : α → State → Reply β} (hf : AheadReply n f)
    (hg : ∀ a, AheadReply n (g a)) : AheadReply n fun s => (f s).bind g := by
  intro s
  simp only [hf s]
  cases f s with
  | done a u => exact hg a u
  | fault e u => rfl
  | stall u => rfl

theorem busConfigure_ahead : AheadReply n busConfigure := by
  intro s
  have hans : nextAnswer (s.ahead n) = nextAnswer s := rfl
  unfold busConfigure
  rw [hans]
  cases nextAnswer s <;> rfl

theorem xferByte_ahead (o : Byte) : AheadReply n (xferByte o) := by
  intro s
  have hans : nextAnswer (s.ahead n) = nextAnswer s := rfl
  unfold xferByte
  rw [hans]
  cases nextAnswer s <;> rfl

theorem xferWord_ahead (t : Word) : AheadReply n (xferWord t) :=
  (xferByte_ahead _).bind fun _ => (xferByte_ahead _).bind fun _ => (xferByte_ahead _).bind fun _ _ => rfl

theorem openFrame_ahead : AheadReply n openFrame := by
  refine (busConfigure_ahead.comp fun s => ?_).bind fun _ _ => rfl
  simp only [State.ahead, Nat.add_right_comm]

theorem xferWords_ahead (is : List (Fin 6)) : AheadReply n (xferWords is) := by
  induction is with
  | nil => exact fun _ => rfl
  | cons i is ih =>
    intro s
    exact (xferWord_ahead s.tx[i]).bind (fun r => ih.comp (g := storeWord i r) fun _ => rfl) s

theorem xchg6_ahead (tx : Frame) : AheadReply n (xchg6 tx) :=
  (openFrame_ahead.comp (g := fun s => { s with tx := tx }) fun _ => rfl).bind fun _ =>
    (xferWords_ahead wordIndices).bind fun _ _ => rfl

theorem frame_ahead (tx : Frame) : AheadReply n (frame tx) := (xchg6_ahead tx).bind fun _ _ => rfl

theorem writeRegFrames_ahead (a : Addr) (v : RegVal) : AheadReply n (writeRegFrames a v) :=
  ((frame_ahead _).bind fun _ _ => rfl).bind fun _ => (frame_ahead _).bind fun _ _ => rfl

/-- The fault exit puts the position back to 0, from wherever it stands (R11). -/
theorem raiseTransportFault_ahead (e : TErr) (mk : Nat → Result) (m : Nat) (s : State) :
    raiseTransportFault e mk m (s.ahead n) = raiseTransportFault e mk m s := by
  have hsel : (s.ahead n).sel = s.sel := rfl
  unfold raiseTransportFault faultExit
  rw [hsel]
  split <;> rfl

/-- A register write from a position `n` further ends in the same state, unless it hangs (R80, log 17). -/
theorem writeRegOp_ahead {a : Addr} {v : RegVal} {s : State} (h : Pending s) :
    writeRegOp a v (s.ahead n) =
      if (writeRegOp a v s).stalled then (writeRegOp a v s).ahead n else writeRegOp a v s := by
  have hends : (writeRegFrames a v s).EndsPending := writeRegFrames_endsPending h
  unfold writeRegOp
  rw [writeRegFrames_ahead a v s]
  cases hr : writeRegFrames a v s with
  | done b u =>
    rw [hr] at hends
    have hstalled : (deliverAck b u).stalled = false := hends.2
    rw [finish_done, hstalled]
    rfl
  | fault e u =>
    rw [hr] at hends
    rw [finish_fault, raise_stalled, hends.2]
    exact raiseTransportFault_ahead _ _ _ u
  | stall u => rfl

end Ahead

/-- The state in which the next part of an expansion begins, up to the position, is the one the part before ended in. -/
theorem beginOp_deliver_ahead {c : Cause} {res : Result} {u : State} (h : Pending u) :
    (beginOp (deliver c res u)).ahead u.frameNo = u := by
  obtain ⟨hresp, -⟩ := h
  simp [beginOp, deliver, State.ahead, ← hresp]

/-! ## Register access (R74) -/

/-- Where `SEND_COMMAND` and then `FETCH_RESPONSE` succeed, their two frames in one operation complete with the same
response, in the state in which `FETCH_RESPONSE` delivered its record. -/
theorem command_then_fetch {k : CmdKind} {a : Addr} {v : RegVal} {s u t : State} {r : Resp}
    (hsend : exec (.sendCommand k a v) s = .next u) (hu : u.response = some ⟨.none, none, .none⟩)
    (hfetch : exec .fetchResponse u = .next t) (ht : t.response = some ⟨.none, none, .resp r⟩) :
    s.busy = false ∧ ∃ w, (sendCommandFrame k a v (beginOp s)).bind (fun _ s => fetchFrame s) = .done r w ∧
      t = deliver .none (.resp r) w := by
  obtain ⟨hb, _, u1, hdone1, hp, rfl⟩ :=
    hostOp_success (f := sendCommandFrame k a v) (fun _ => sendCommandFrame_endsPending) hsend hu
  obtain ⟨-, r', u2, hdone2, -, rfl⟩ := hostOp_success (f := fetchFrame) (fun _ => frame_endsPending) hfetch ht
  cases ht
  have hfetched : fetchFrame u1 = .done r (u2.ahead u1.frameNo) := calc
    fetchFrame u1 = fetchFrame ((beginOp (deliver .none .none u1)).ahead u1.frameNo) := by rw [beginOp_deliver_ahead hp]
    _ = (fetchFrame (beginOp (deliver .none .none u1))).mapState (State.ahead u1.frameNo) := frame_ahead _ _
    _ = .done r (u2.ahead u1.frameNo) := by rw [hdone2, Reply.mapState]
  exact ⟨hb, u2.ahead u1.frameNo, by rw [hdone1, bind_done, hfetched], rfl⟩

theorem successOf_ackCause (ack : Bool) : successOf (ackCause ack) = ack := by cases ack <;> rfl

/-- Settles O52: the two register operations by `command_then_fetch`, the single channel by the one frame that both sampling
operations make. -/
theorem registerAccessIsCommandThenFetch : Obligations.RegisterAccessIsCommandThenFetch := by
  refine ⟨?_, ?_, ?_⟩
  · intro a s u t r hsend hu hfetch ht
    obtain ⟨hb, w, hframes, rfl⟩ := command_then_fetch hsend hu hfetch ht
    have hread : readRegFrames a (beginOp s) = .done r.value w := by
      rw [readRegFrames, ← bind_bind, hframes, bind_done]
    exact ⟨_, hostOp_done hb hread, rfl⟩
  · intro a v s u t r hsend hu hfetch ht
    obtain ⟨hb, w, hframes, rfl⟩ := command_then_fetch hsend hu hfetch ht
    have hwrite : writeRegFrames a v (beginOp s) = .done r.ack w := by
      rw [writeRegFrames, ← bind_bind, hframes, bind_done]
    refine ⟨_, hostOp_done hb hwrite, ?_⟩
    rw [deliverAck, successOf_ackCause]
    rfl
  · intro c s t xs h ht
    obtain ⟨hb, r, u, hdone, -, rfl⟩ := hostOp_success (f := fetchFrame) (fun _ => frame_endsPending) h ht
    cases ht
    exact ⟨_, rfl, (hostOp_done hb hdone).trans rfl⟩

/-! ## Derived operations (R74) -/

theorem bind_eq_done {α β : Type} {r : Reply α} {f : α → State → Reply β} {b : β} {t : State} :
    r.bind f = .done b t ↔ ∃ a u, r = .done a u ∧ f a u = .done b t := by
  cases r <;> simp [Reply.bind]

theorem frame_done_frameNo {tx : Frame} {s u : State} {r : Resp} (h : frame tx s = .done r u) :
    u.frameNo = s.frameNo + 1 := by
  rcases frame_done_or_stopped tx s with ⟨rx, hf⟩ | ⟨x, v, hf⟩ <;> rw [hf] at h
  · cases h; rfl
  · exact absurd h.symm done_ne_stopped

/-- A register read that completes has made two frames (R98, R17). -/
theorem readRegFrames_done_frameNo {a : Addr} {s u : State} {v : RegVal} (h : readRegFrames a s = .done v u) :
    u.frameNo = s.frameNo + 2 := by
  rw [readRegFrames, bind_eq_done] at h
  obtain ⟨_, u1, hsend, h⟩ := h
  rw [sendCommandFrame, bind_eq_done] at hsend
  obtain ⟨_, _, hsend, hu1⟩ := hsend
  cases hu1
  obtain ⟨_, _, hfetch, hu⟩ := bind_eq_done.1 h
  cases hu
  rw [frame_done_frameNo hfetch, frame_done_frameNo hsend]

/-- Settles O53: `GLOBAL_CHOP` reaches its third frame with the position at 2, where `WRITE_REG` begins at 0; the other
expansions make the very same frames. -/
theorem derivedOperationsAreTheirExpansions : Obligations.DerivedOperationsAreTheirExpansions := by
  refine ⟨fun _ _ _ _ _ => rfl, ?_, ?_, ?_⟩
  · intro en d old s u t hd hread hu hwrite
    obtain ⟨hb, v, w, hdone, hp, rfl⟩ :=
      hostOp_success (f := readRegFrames Config.addrCfg) (fun _ => readRegFrames_endsPending) hread hu
    cases hu
    obtain ⟨hb', rfl⟩ := hostOp_ok hwrite
    have hposition : w.frameNo = 2 := readRegFrames_done_frameNo hdone
    have hchop : exec (.globalChop en d) s = .next (writeRegOp Config.addrCfg (packChop old en d) w) := by
      rw [exec, execGlobalChop, if_pos hd, hostOp_next hb, chopFrames, hdone]
      rfl
    rw [hchop, ← beginOp_deliver_ahead (c := .none) (res := .value old) hp, hposition,
      writeRegOp_ahead (pending_beginOp hb')]
    rfl
  · intro s t rx r h ht
    obtain ⟨hb, r', u, hdone, -, rfl⟩ := hostOp_success (f := fetchFrame) (fun _ => frame_endsPending) h ht
    cases ht
    exact (hostOp_done hb hdone).trans rfl
  · intro a v s t rx r h ht
    obtain ⟨hb, r', u, hdone, -, rfl⟩ :=
      hostOp_success (f := frame (cmdFrame (mkCmd .rreg a))) (fun _ => frame_endsPending) h ht
    cases ht
    have hsend : sendCommandFrame .rreg a v (beginOp s) = .done () u := by
      rw [sendCommandFrame, sendFrame, hdone, bind_done]
    exact (hostOp_done hb hsend).trans rfl

end Sys2Proof.Machine
end

section
/-! Settles `WordsOutOfTurnAreRefused`, `ReceivedWordFiveEndsTheFrame` and `TwelveWordStepsMakeOneFrame`. A frame open at
Word `i` (`OpenAt`) still has Words `i` to 5 to make, and what `XCHG_FRAME` makes of them (`frameRest`) is reached in two
steps a Word: by induction on the Words left, a Word that stops being the end of both. -/

namespace Sys2Proof.Machine

/-! ## Refusals and the last Word -/

/-- Settles O37: a row looks at the waiting Word right after the block was found free. -/
theorem wordsOutOfTurnAreRefused : Obligations.WordsOutOfTurnAreRefused := by
  constructor
  · intro i w s hi hst hr hw
    have he : s.engaged = false := (engaged_eq_false s).2 ⟨hst, hr⟩
    rw [exec_of_rxRow hi, rxWord, he, hw]
    rfl
  · intro i t s hi hst hr hw
    have he : s.engaged = false := (engaged_eq_false s).2 ⟨hst, hr⟩
    rw [exec_of_txRow hi, txWord, he, hw]
    rfl

/-- The last Word is stored, and its frame ends (R76). -/
theorem receiveWord_five (w : Word) (s : State) :
    receiveWord 5 w s = endWordFrame { storeWord 5 w s with inWord := none } := rfl

/-- The CRC Word stored leaves the other five Words alone (R81). -/
theorem getElem_setCrc (rx : Frame) (c : Word) {j : Nat} (hj : j < 5) : (rx.set 5 c)[j] = rx[j] :=
  Vector.getElem_set_ne _ _ (by omega)

/-- Settles O36: storing Word 5 does not touch Word 0, which the record correlates. -/
theorem receivedWordFiveEndsTheFrame : Obligations.ReceivedWordFiveEndsTheFrame := by
  intro i w w' s hi hst hr hw
  have hword0 : (s.rx.set 5 w)[0] = s.rx[0] := getElem_setCrc s.rx w (by omega)
  rw [exec_of_rxRow hi, rxWord_next ((engaged_eq_false s).2 ⟨hst, hr⟩) hw, receiveWord_five, ← hword0,
    List.append_cons]
  rfl

/-! ## Steps of a machine that waits -/

/-- Nothing is in progress and nothing is asked: the block waits (R147). -/
structure Waits (s : State) : Prop where
  stalled : s.stalled = false
  running : s.running = none
  inWord : s.inWord = none
  sel : s.sel = false
  requests : s.requests = []

theorem Waits.step {s : State} (h : Waits s) : step s = .next s := by
  have hf : fetch s = .idle := by
    rw [fetch_request h.stalled h.running h.inWord h.sel, fetchRequest, h.requests]
  simp only [Machine.step, hf]

theorem Waits.stepN {s : State} (h : Waits s) : ∀ n, stepN n s = .next s
  | 0 => rfl
  | n + 1 => by simp only [Machine.stepN, h.step, h.stepN n]

theorem stepN_succ {n : Nat} {s u : State} (h : step s = .next u) : stepN (n + 1) s = stepN n u := by
  simp only [stepN, h]

/-! ## Steps of an open frame -/

/-- A frame is open at the first byte of Word `i`, each step runs one Word whole, and the host asks for nothing. -/
structure OpenAt (i : Fin 6) (s : State) : Prop where
  stalled : s.stalled = false
  running : s.running = none
  inWord : s.inWord = none
  sel : s.sel = true
  seq : s.seq = ⟨i, 0⟩
  grain : s.grain = .operation
  requests : s.requests = []

/-- At the grain `operation` a step of an open frame sends the transmit Word at the sequencer position, whether or not it
is a row of the table (R71). -/
theorem OpenAt.step {i : Fin 6} {s : State} (h : OpenAt i s) : step s = .next (sendWord s.tx[i] s) := by
  have he : s.engaged = false := (engaged_eq_false s).2 ⟨h.stalled, h.running⟩
  have hfetch : fetch s = fetchTx s := fetch_tx h.stalled h.running h.inWord h.sel
  simp only [fetchTx, h.seq] at hfetch
  cases hd : decodeTx i s.tx[0] s.tx[i] with
  | some ins =>
    rw [hd] at hfetch
    rw [(step_of_run hfetch rfl).1 h.grain, exec_decodeTx hd, txWord_next he h.inWord]
  | none =>
    rw [hd] at hfetch
    simp only [Machine.step, hfetch, takeUpWord, h.grain]

/-- At the grain `operation` a step in which a Word waits stores it at its index. -/
theorem step_of_inWord {j : Fin 6} {w : Word} {s : State} (hst : s.stalled = false) (hr : s.running = none)
    (hw : s.inWord = some (j, w)) (hg : s.grain = .operation) : step s = .next (receiveWord j w s) := by
  rw [(step_of_run (fetch_rx hst hr hw) rfl).1 hg, exec_decodeRx,
    rxWord_next ((engaged_eq_false s).2 ⟨hst, hr⟩) hw]

/-- In an open frame a Word that is already loaded is sent from its place. -/
theorem OpenAt.sendWord {i : Fin 6} {s : State} (h : OpenAt i s) : sendWord s.tx[i] s =
    finish (xferWord s.tx[i] s) drawFrame 7 fun r v => { v with inWord := some (i, r) } := by
  have hset : s.tx.set s.seq.w s.tx[i] = s.tx := by simp [h.seq]
  have hload : ({ s with tx := s.tx.set s.seq.w s.tx[i] } : State) = s := by rw [hset]
  rw [Machine.sendWord, wordScope_of_sel h.sel, bind_done, hload, finish_bind]
  simp only [h.seq, finish_done]

/-- What `XCHG_FRAME` makes of the Words `is` that an open frame has left: they are exchanged and the frame ends with its
record, or the frame is cut (R76, R79, R100). -/
def frameRest (is : List (Fin 6)) (s : State) : State :=
  finish (xferWords is s) drawFrame 7 fun _ v => endWordFrame v

theorem frameRest_cons (i : Fin 6) (is : List (Fin 6)) (s : State) : frameRest (i :: is) s =
    finish (xferWord s.tx[i] s) drawFrame 7 fun r v => frameRest is (storeWord i r v) := by
  rw [frameRest, xferWords, finish_bind]
  rfl

/-- Where a Word stops and the operation does not hang, its fault exit leaves a block that waits (R79, R80). -/
theorem waits_opStop {x : Stop} {s : State} {mk : Nat → Result} {n : Nat} (hstop : (opStop x mk n s).stalled = false)
    (hr : s.running = none) (hw : s.inWord = none) (hq : s.requests = []) : Waits (opStop x mk n s) := by
  cases x with
  | none => cases hstop
  | some e => exact ⟨hstop, (raise_running e mk n s).trans hr, (raise_inWord e mk n s).trans hw, raise_sel e mk n s,
      (raise_requests e mk n s).trans hq⟩

/-- A Word that has just been received is stored; if it is the last, its frame ends (R76). -/
theorem receiveWord_latched {i : Fin 6} {r : Word} {v : State} (hv : v.inWord = none) :
    receiveWord i r { v with inWord := some (i, r) } =
      if i = 5 then endWordFrame (storeWord i r v) else storeWord i r v := by
  have hstored : ({ storeWord i r v with inWord := none } : State) = storeWord i r v := by simp [storeWord, ← hv]
  exact congrArg (fun u => if i = 5 then endWordFrame u else u) hstored

/-- What becomes of the next Word of an open frame. -/
inductive WordEnds (i : Fin 6) (s : State) : Prop where
  /-- Two steps exchange and store it, as `XCHG_FRAME` does on its way to the Words behind it. -/
  | stored (u : State) : (∀ is, frameRest (i :: is) s = frameRest is u) →
      (∀ n, stepN (n + 2) s = stepN n (if i = 5 then endWordFrame u else u)) →
      (∀ k, Seq.next ⟨i, 2⟩ = ⟨k, 0⟩ → OpenAt k u) → WordEnds i s
  /-- One step cuts the frame at it, as `XCHG_FRAME` does. -/
  | cut (u : State) : (∀ is, frameRest (i :: is) s = u) → step s = .next u → (u.stalled = false → Waits u) →
      WordEnds i s

theorem OpenAt.word {i : Fin 6} {s : State} (h : OpenAt i s) : WordEnds i s := by
  have hstep : Machine.step s = .next
      (finish (xferWord s.tx[i] s) drawFrame 7 fun r v => { v with inWord := some (i, r) }) := by
    rw [h.step, h.sendWord]
  rcases xferWord_ends s.tx[i] h.seq with ⟨r, hx⟩ | ⟨r, j, x, hx⟩ <;> rw [hx] at hstep
  · generalize hv : s.played 3 (Seq.next ⟨i, 2⟩) (wordEvents s.tx[i] r) = v at hx hstep
    have hopen : ∀ k, Seq.next ⟨i, 2⟩ = ⟨k, 0⟩ → OpenAt k (storeWord i r v) := fun k hk => by
      subst hv; exact ⟨h.stalled, h.running, h.inWord, h.sel, hk, h.grain, h.requests⟩
    obtain ⟨hst, hr, hw, hg⟩ : v.stalled = false ∧ v.running = none ∧ v.inWord = none ∧ v.grain = .operation := by
      subst hv; exact ⟨h.stalled, h.running, h.inWord, h.grain⟩
    have hstore : Machine.step { v with inWord := some (i, r) } = _ := step_of_inWord hst hr rfl hg
    refine .stored _ (fun is => by rw [frameRest_cons, hx, finish_done]) (fun n => ?_) hopen
    rw [stepN_succ hstep, finish_done, stepN_succ hstore, receiveWord_latched hw]
  · rw [finish_stopped] at hstep
    exact .cut _ (fun is => by rw [frameRest_cons, hx, finish_stopped]) hstep
      fun hstop => waits_opStop hstop h.running h.inWord h.requests

/-- The Words left from a Word on are that Word and the Words left from the next (R34). -/
theorem wordIndices_drop (i : Fin 5) :
    wordIndices.drop i.castSucc.val = i.castSucc :: wordIndices.drop i.succ.val := by
  revert i; decide

/-- The byte after the last one of a Word is the first one of the next Word (R17). -/
theorem seq_next_castSucc (i : Fin 5) : Seq.next ⟨i.castSucc, 2⟩ = ⟨i.succ, 0⟩ := by
  revert i; decide

/-- From a frame open at Word `i`, two steps for each Word left reach what `XCHG_FRAME` makes of them (R75, R76). -/
theorem stepN_frameRest (i : Fin 6) : ∀ s, OpenAt i s → (frameRest (wordIndices.drop i.val) s).stalled = false →
    stepN (2 * (6 - i.val)) s = .next (frameRest (wordIndices.drop i.val) s) := by
  induction i using Fin.reverseInduction with
  | last =>
    intro s h hend
    have hdrop : wordIndices.drop (Fin.last 5).val = [5] := rfl
    rw [hdrop] at hend ⊢
    cases h.word with
    | stored u hrest hsteps _ =>
      have hrest : frameRest [5] s = frameRest [] u := hrest []
      rw [hrest]
      exact hsteps 0
    | cut u hrest hstep hwait =>
      have hrest : frameRest [5] s = u := hrest []
      rw [hrest] at hend ⊢
      exact (stepN_succ hstep).trans ((hwait hend).stepN 1)
  | cast i ih =>
    intro s h hend
    have hcount : 2 * (6 - i.castSucc.val) = 2 * (6 - i.succ.val) + 2 := by
      simp only [Fin.val_castSucc, Fin.val_succ]
      omega
    rw [wordIndices_drop] at hend ⊢
    rw [hcount]
    cases h.word with
    | stored u hrest hsteps hopen =>
      have hmiddle : i.castSucc ≠ 5 := (Fin.castSucc_lt_last i).ne
      rw [hrest] at hend ⊢
      rw [hsteps, if_neg hmiddle]
      exact ih _ (hopen _ (seq_next_castSucc i)) hend
    | cut u hrest hstep hwait =>
      rw [hrest] at hend ⊢
      exact (stepN_succ hstep).trans ((hwait hend).stepN _)

/-! ## The frame of `XCHG_FRAME` -/

/-- The meaning of `XCHG_FRAME` from the opening of its frame on: the six Words left, or a bus that is not granted. -/
theorem xchgFrame_run (cmd : Word) (s : State) :
    finish (frame (cmdFrame cmd) s) drawFrame 7 (fun r v => deliver .none (.frame v.rx r) v) =
      finish (openFrame { s with tx := cmdFrame cmd }) drawFrame 7 fun _ v => frameRest wordIndices v := by
  have hopened : openFrame { s with tx := cmdFrame cmd } = .done () (s.inFrame (cmdFrame cmd) s.rx s.reading 1 ⟨0, 0⟩
      [.busConfigure s.sclkHz .msbFirst Config.busMode .ok, .selAssert]) ∨
      ∃ x v, openFrame { s with tx := cmdFrame cmd } = .stopped x v :=
    (openFrame_ends { s with tx := cmdFrame cmd }).imp id fun ⟨x, ho⟩ => ⟨x, _, ho⟩
  rw [frame, xchg6, bind_bind, finish_bind]
  rcases hopened with ho | ⟨x, v, ho⟩ <;> rw [ho]
  · simp only [finish_done, bind_bind, finish_bind, bind_done, frameRest]
    rcases frameWords_ends (cmdFrame cmd) s.rx s.reading s with ⟨rx, hw⟩ | ⟨rx, r, rd, k, x, hw⟩ <;> rw [hw]
    · rfl
    · rw [finish_stopped, finish_stopped]
  · rw [finish_stopped, finish_stopped]

/-- An opened frame stands at Word 0 with its transmit Words loaded, or the bus is not granted (R77). -/
theorem openFrame_opens {s : State} (hst : s.stalled = false) (hr : s.running = none) (hw : s.inWord = none)
    (hg : s.grain = .operation) (hq : s.requests = []) :
    (∃ v, openFrame s = .done () v ∧ OpenAt 0 v ∧ v.tx = s.tx) ∨
    ∃ x v, openFrame s = .stopped x v ∧ ∀ mk n, (opStop x mk n v).stalled = false → Waits (opStop x mk n v) := by
  rcases openFrame_ends s with ho | ⟨x, ho⟩
  · exact .inl ⟨_, ho, ⟨hst, hr, hw, rfl, rfl, hg, hq⟩, rfl⟩
  · exact .inr ⟨x, _, ho, fun _ _ hend => waits_opStop hend hr hw hq⟩

/-- Settles O38: a row that opens its frame does so as `XCHG_FRAME` does, and then makes the first of the twelve steps. -/
theorem twelveWordStepsMakeOneFrame : Obligations.TwelveWordStepsMakeOneFrame := by
  intro cmd s t hb hg hq hexec hend
  obtain ⟨hst, hsel, hw, hr⟩ := (busy_eq_false s).1 hb
  rw [exec, execXchgFrame] at hexec
  obtain ⟨-, rfl⟩ := hostOp_ok hexec
  rw [xchgFrame_run] at hend ⊢
  have hrow : ∀ i, txRow i = some cmd → exec i s = .next (sendWord cmd s) := fun i hi => by
    rw [exec_of_txRow hi, txWord_next ((engaged_eq_false s).2 ⟨hst, hr⟩) hw]
  have hscope : wordScope cmd s = openFrame { beginOp s with tx := cmdFrame cmd } := if_neg (by simp [hsel])
  rcases openFrame_opens (s := { beginOp s with tx := cmdFrame cmd }) hst hr hw hg hq with
    ⟨v, ho, hopen, htx⟩ | ⟨x, v, ho, hwait⟩ <;> rw [ho] at hend hscope ⊢
  · rw [finish_done] at hend ⊢
    have htwelve : stepN 12 v = .next (frameRest wordIndices v) := stepN_frameRest 0 v hopen hend
    have hword : v.tx[(0 : Fin 6)] = cmd := by rw [htx]; rfl
    have hfirst : step v = .next (sendWord cmd s) := by
      rw [hopen.step, hword, sendWord, sendWord, hscope, wordScope_of_sel hopen.sel]
    refine ⟨fun s1 hs1 => by cases hs1; exact htwelve, fun i hi => ⟨_, hrow i hi, ?_⟩⟩
    rw [← htwelve, stepN_succ hfirst]
  · rw [finish_stopped] at hend ⊢
    refine ⟨fun s1 hs1 => absurd hs1.symm done_ne_stopped, fun i hi => ⟨_, hrow i hi, ?_⟩⟩
    rw [sendWord, hscope, bind_stopped, finish_stopped]
    exact (hwait _ _ hend).stepN 11

end Sys2Proof.Machine
end

section
/-! Settles `BusConfigureFaultEndsTheOperation`, `ByteFaultEndsTheOperation`, `StallLeavesTheScopeAsItWas` and
`SecondFrameStallLeavesTheScopeAsItWas`. Every operation with frames begins with the frame `firstFrame` names, and one with
two frames or more fetches a response next; where such a frame stops, the operation is at its end (`opStop`). The rest is
read off the state at the stopped frame. -/

namespace Sys2Proof.Machine

/-! ## The first two frames of an operation (R69, R96 to R108) -/

/-- The result fields of the record of `i` cut by a fault, drawn from a counter (R12). -/
def drawnBy (i : Instr) (n : Nat) : Result := (drawResult i n).1

/-- A faulted record reports no success (R12, R99). -/
theorem drawnBy_success {i : Instr} {n : Nat} {b : Bool} (h : drawnBy i n = .success b) : b = false := by
  cases i
  case writeReg | setGain | globalChop => cases h; rfl
  all_goals cases h

/-- An operation of one frame (R87, R88, R96, R97, R100). -/
theorem exec_oneFrame {i : Instr} {s : State} (hf : framesOf i = 1) (hb : s.busy = false) :
    exec i s = .next (finish (frame (firstFrame i) (beginOp s)) (drawnBy i) (drawResult i 0).2 (endOp i)) := by
  cases i
  case xchgFrame | fetchResponse | readChannels | readChannelSingle =>
    rw [exec]
    exact hostOp_next hb
  case sendCommand k a v =>
    rw [exec, execSendCommand, hostOp_next hb, sendCommandFrame, finish_bind]
    rfl
  all_goals cases hf

/-- An operation of two frames or more: its command frame, then the null frame that fetches the response (R98, R99). -/
theorem exec_commandThenFetch {i : Instr} (hwf : wellFormed i = true) (hf : 2 ≤ framesOf i) :
    ∃ k : Resp → State → State, ∀ s, s.busy = false → exec i s =
      .next (finish (frame (firstFrame i) (beginOp s)) (drawnBy i) (drawResult i 0).2 fun _ u =>
        finish (fetchFrame u) (drawnBy i) (drawResult i 0).2 k) := by
  cases i
  case readReg a =>
    refine ⟨endOp (.readReg a), fun s hb => ?_⟩
    rw [exec, execReadReg, hostOp_next hb]
    simp only [readRegFrames, sendCommandFrame, finish_bind, finish_done]
    rfl
  case writeReg | setGain =>
    refine ⟨fun r => deliverAck r.ack, fun s hb => ?_⟩
    rw [exec]
    refine (hostOp_next hb).trans ?_
    simp only [writeRegOp, writeRegFrames, sendCommandFrame, finish_bind, finish_done]
    rfl
  case globalChop en d =>
    have hd : legalDelay d = true := hwf
    refine ⟨fun r => writeRegOp Config.addrCfg (packChop r.value en d), fun s hb => ?_⟩
    rw [exec, execGlobalChop, if_pos hd, hostOp_next hb]
    simp only [chopFrames, readRegFrames, sendCommandFrame, finish_bind, finish_done]
    rfl
  all_goals simp only [framesOf, Nat.reduceLeDiff] at hf

/-- An operation whose first frame stops is at its end (R79, R80). -/
theorem exec_stopped_first {i : Instr} {s v : State} {x : Stop} (hwf : wellFormed i = true) (hf : 0 < framesOf i)
    (hb : s.busy = false) (h : frame (firstFrame i) (beginOp s) = .stopped x v) :
    exec i s = .next (opStop x (drawnBy i) (drawResult i 0).2 v) := by
  rcases Nat.lt_or_ge 1 (framesOf i) with htwo | hone
  · obtain ⟨k, hexec⟩ := exec_commandThenFetch hwf htwo
    rw [hexec s hb, h, finish_stopped]
  · rw [exec_oneFrame (by omega) hb, h, finish_stopped]

/-- An operation whose second frame stops is at its end: no further frame is made (R79, R80, R101). -/
theorem exec_stopped_second {i : Instr} {s u v : State} {r : Resp} {x : Stop} (hwf : wellFormed i = true)
    (hf : 2 ≤ framesOf i) (hb : s.busy = false) (h1 : frame (firstFrame i) (beginOp s) = .done r u)
    (h2 : frame (cmdFrame nullWord) u = .stopped x v) :
    exec i s = .next (opStop x (drawnBy i) (drawResult i 0).2 v) := by
  obtain ⟨k, hexec⟩ := exec_commandThenFetch hwf hf
  rw [hexec s hb, h1, finish_done, fetchFrame, h2, finish_stopped]

/-! ## Faults in the first frame (R79, R130) -/

/-- The fault exit leaves nothing held, in a frame (F1) or outside one (F0) (R79). -/
theorem quiescent_raise {e : TErr} {mk : Nat → Result} {n : Nat} {v : State} (hbus : v.busHeld = v.sel)
    (hw : v.inWord = none) (hst : v.stalled = false) (hr : v.running = none) :
    Quiescent (raiseTransportFault e mk n v) := by
  refine ⟨raise_sel e mk n v, ?_, (raise_inWord e mk n v).trans hw, (raise_stalled e mk n v).trans hst,
    (raise_running e mk n v).trans hr⟩
  rw [raise_busHeld, hbus]
  cases v.sel <;> rfl

/-- Settles O39: at the fault no scope is held, and the fault exit adds nothing to the wire. -/
theorem busConfigureFaultEndsTheOperation : Obligations.BusConfigureFaultEndsTheOperation := by
  intro i e rest s hwf hf hq ha
  obtain ⟨hsel, hbus, hw, hst, hr⟩ := id hq
  have hexec := exec_stopped_first hwf hf (not_busy_of_quiescent hq)
    (frame_unclaimed (x := some e) (s := beginOp s) ha)
  generalize hv : frameUnclaimed (firstFrame i) (some e) (beginOp s) = v at hexec
  have hvsel : v.sel = false := by subst hv; exact hsel
  have htrace : v.trace = s.trace ++ [.busConfigure s.sclkHz .msbFirst Config.busMode (.fault e)] := by subst hv; rfl
  have hanswers : v.answers = rest := by subst hv; exact congrArg (List.drop 1) ha
  refine ⟨_, _, hexec, raise_response _ _ _ v, fun _ => drawnBy_success, ?_, raise_pend _ _ _ v, ?_, ?_, ?_⟩
  · subst hv
    exact quiescent_raise (hbus.trans hsel.symm) hw hst hr
  · rw [opStop_some, raise_trace, hvsel, htrace]
    exact List.append_nil _
  · rw [opStop_some, raise_answers, hanswers]
  · rw [opStop_some, raise_sclkHz, raise_clkinHz, raise_requests, raise_device, hvsel]
    subst hv
    exact ⟨rfl, rfl, rfl, rfl⟩

/-- A frame cut at byte `k` has taken `k + 2` answers: that of `BusConfigure` and those of the bytes up to `k`. -/
theorem drop_cutAnswers (rx : Frame) (k : Fin 18) (a : Answer) (rest : List Answer) :
    (cutAnswers rx k a ++ rest).drop (k.val + 2) = rest := by
  have hlen : (frameAnswers rx).length = 19 := rfl
  exact List.drop_left' (by simp [cutAnswers, hlen]; omega)

/-- Settles O40: at the fault the scope is held, and the fault exit releases it. -/
theorem byteFaultEndsTheOperation : Obligations.ByteFaultEndsTheOperation := by
  intro i e k rx rest s hwf hf hq ha
  obtain ⟨-, -, hw, hst, hr⟩ := id hq
  obtain ⟨r, rd, hframe⟩ := frame_cut (tx := firstFrame i) (x := some e) (s := beginOp s) ha
  have hexec := exec_stopped_first hwf hf (not_busy_of_quiescent hq) hframe
  generalize hv : frameCut (firstFrame i) rx r rd k (some e) (beginOp s) = v at hexec
  have hvsel : v.sel = true := by subst hv; rfl
  have htrace : v.trace = s.trace ++ cutEvents s.sclkHz (firstFrame i) rx k (.fault e) := by subst hv; rfl
  have hanswers : v.answers = rest := by
    subst hv; exact (congrArg (List.drop (k.val + 2)) ha).trans (drop_cutAnswers rx k (.fault e) rest)
  refine ⟨_, _, hexec, raise_response _ _ _ v, fun _ => drawnBy_success, ?_, raise_pend _ _ _ v, ?_, ?_, ?_, ?_⟩
  · subst hv
    exact quiescent_raise rfl hw hst hr
  · rw [opStop_some, raise_seq]
    subst hv
    rfl
  · rw [opStop_some, raise_trace, hvsel, htrace]
    rfl
  · rw [opStop_some, raise_answers, hanswers]
  · rw [opStop_some, raise_sclkHz, raise_clkinHz, raise_requests]
    subst hv
    exact ⟨rfl, rfl, rfl⟩

/-! ## Stalls (R80) -/

/-- A machine in which a primitive never returned has no next state (R80). -/
theorem step_of_stalled {s : State} (h : s.stalled = true) : step s = .fault .stalled := by
  simp only [step, fetch, h, if_true]

/-- Settles O42: the operation hangs in the state its first frame stopped in. -/
theorem stallLeavesTheScopeAsItWas : Obligations.StallLeavesTheScopeAsItWas := by
  intro i rest s hwf hf hq
  obtain ⟨hsel, hbus, -, -, -⟩ := id hq
  constructor
  · intro ha
    have hexec := exec_stopped_first hwf hf (not_busy_of_quiescent hq)
      (frame_unclaimed (x := none) (s := beginOp s) ha)
    exact ⟨_, hexec, rfl, rfl, hsel, hbus, rfl, rfl, rfl, step_of_stalled rfl⟩
  · intro k rx ha
    obtain ⟨r, rd, hframe⟩ := frame_cut (tx := firstFrame i) (x := none) (s := beginOp s) ha
    have hexec := exec_stopped_first hwf hf (not_busy_of_quiescent hq) hframe
    exact ⟨_, hexec, rfl, rfl, rfl, rfl, rfl, rfl, rfl, step_of_stalled rfl⟩

/-- Settles O43: the first frame is whole (`frame_listed`), and the operation hangs in the state its second one stopped
in. -/
theorem secondFrameStallLeavesTheScopeAsItWas : Obligations.SecondFrameStallLeavesTheScopeAsItWas := by
  intro i rx1 rest s hwf hf hq
  have hb : s.busy = false := not_busy_of_quiescent hq
  constructor
  · intro ha
    have hfirst := frame_listed (tx := firstFrame i) (s := beginOp s) ha
    have hexec := exec_stopped_second hwf hf hb hfirst (frame_unclaimed (x := none) rfl)
    exact ⟨_, hexec, rfl, rfl, rfl, rfl, rfl, rfl, rfl, step_of_stalled rfl⟩
  · intro k rx2 ha
    have hfirst := frame_listed (tx := firstFrame i) (s := beginOp s) ha
    obtain ⟨r, rd, hsecond⟩ := frame_cut (tx := cmdFrame nullWord) (x := none)
      (s := afterFrame (firstFrame i) rx1 (cutAnswers rx2 k .stall ++ rest) (beginOp s)) rfl
    have hexec := exec_stopped_second hwf hf hb hfirst hsecond
    exact ⟨_, hexec, rfl, rfl, rfl, rfl, rfl, rfl, rfl, step_of_stalled rfl⟩

end Sys2Proof.Machine
end

section
/-! Settles `CrcWordIsNotExamined`. Two runs whose answers differ only in the Words 5 stay apart by `RX[5]` and the bytes
received (`CrcApart`) through every frame, with the same value from each (`CrcBlind`), and this is kept by composition. A
record is made of such a value and of Words 0 to 4, so it is the same in both. -/

namespace Sys2Proof.Machine

/-! ## Two runs apart by the CRC Words (R81) -/

/-- The answers of frames that complete, each pair being the six Words received and another Word 5. -/
def plainAnswers (xs : List (Frame × Word)) : List Answer := xs.flatMap fun p => frameAnswers p.1

/-- The same answers with the other Words 5. -/
def otherAnswers (xs : List (Frame × Word)) : List Answer := xs.flatMap fun p => frameAnswers (p.1.set 5 p.2)

/-- The state `t` with `c` as `RX[5]` and another wire trace. -/
def withCrc (c : Word) (tr : List Event) (t : State) : State := { t with rx := t.rx.set 5 c, trace := tr }

/-- Between the frames of two runs apart by their CRC Words: the frames `xs` are still to come in both, and the states
differ in `RX[5]`, which is `c` in the second, and in the bytes received. -/
structure CrcApart (c : Word) (xs : List (Frame × Word)) (rest : List Answer) (s s' : State) : Prop where
  plain : s.answers = plainAnswers xs ++ rest
  other : s' = { withCrc c s'.trace s with answers := otherAnswers xs ++ rest }
  sent : s'.trace.map eraseReceived = s.trace.map eraseReceived

/-- The bytes a frame sends do not depend on the Words it receives (R77). -/
theorem frameEvents_eraseReceived (hz : Hz) (tx rx rx' : Frame) :
    (frameEvents hz tx rx).map eraseReceived = (frameEvents hz tx rx').map eraseReceived := rfl

/-- One frame of two such runs: both complete with the same response, and the CRC Word of this frame is now in `RX[5]`. -/
theorem frame_crcApart {tx rx : Frame} {c w : Word} {xs : List (Frame × Word)} {rest : List Answer} {s s' : State}
    (h : CrcApart c ((rx, w) :: xs) rest s s') :
    ∃ r u u', frame tx s = .done r u ∧ frame tx s' = .done r u' ∧ CrcApart w xs rest u u' := by
  obtain ⟨hplain, hother, hsent⟩ := h
  have hdone : frame tx s = _ :=
    frame_listed (rx := rx) (rest := plainAnswers xs ++ rest) (by simpa [plainAnswers] using hplain)
  have hdone' : frame tx s' = _ :=
    frame_listed (rx := rx.set 5 w) (rest := otherAnswers xs ++ rest) (by rw [hother]; simp [otherAnswers])
  have hpend : s'.pend = s.pend := by rw [hother]; rfl
  rw [hpend, getElem_setCrc rx w (by omega)] at hdone'
  refine ⟨_, _, _, hdone, hdone', rfl, ?_, ?_⟩
  · rw [hother]; rfl
  · have hhz : s'.sclkHz = s.sclkHz := by rw [hother]; rfl
    rw [afterFrame_trace, afterFrame_trace, List.map_append, List.map_append, hsent, hhz,
      frameEvents_eraseReceived s.sclkHz tx rx]

/-! ## Functions that do not examine the CRC Words -/

/-- The CRC Word in `RX[5]` after the frames `xs`. -/
def crcAfter (c : Word) (xs : List (Frame × Word)) : Word := xs.foldl (fun _ p => p.2) c

/-- The function makes `n` frames, and completes with the same value in two runs apart by their CRC Words. -/
def CrcBlind {α : Type} (n : Nat) (f : State → Reply α) : Prop :=
  ∀ c xs ys rest s s', xs.length = n → CrcApart c (xs ++ ys) rest s s' →
    ∃ a u u', f s = .done a u ∧ f s' = .done a u' ∧ CrcApart (crcAfter c xs) ys rest u u'

theorem CrcBlind.done {α : Type} (a : α) : CrcBlind 0 fun s => .done a s := by
  intro c xs ys rest s s' hn h
  rw [List.length_eq_zero_iff] at hn
  subst hn
  exact ⟨a, s, s', rfl, rfl, h⟩

/-- The rule of composition: the frames of the first function come first. -/
theorem CrcBlind.bind {α β : Type} {m n : Nat} {f : State → Reply α} {g : α → State → Reply β} (hf : CrcBlind m f)
    (hg : ∀ a, CrcBlind n (g a)) : CrcBlind (m + n) fun s => (f s).bind g := by
  intro c xs ys rest s s' hn h
  rw [← List.take_append_drop m xs, List.append_assoc] at h
  obtain ⟨a, u, u', hdone, hdone', hu⟩ := hf _ _ _ _ _ _ (by simp [hn]) h
  obtain ⟨b, v, v', hlast, hlast', hv⟩ := hg a _ _ _ _ _ _ (by simp [hn]) hu
  refine ⟨b, v, v', by simp only [hdone, bind_done, hlast], by simp only [hdone', bind_done, hlast'], ?_⟩
  rwa [crcAfter, crcAfter, ← List.foldl_append, List.take_append_drop] at hv

theorem frame_crcBlind (tx : Frame) : CrcBlind 1 (frame tx) := by
  intro c xs ys rest s s' hn h
  obtain ⟨⟨rx, w⟩, rfl⟩ := List.length_eq_one_iff.1 hn
  exact frame_crcApart h

theorem sendCommandFrame_crcBlind (k : CmdKind) (a : Addr) (v : RegVal) : CrcBlind 1 (sendCommandFrame k a v) :=
  (frame_crcBlind _).bind fun _ => .done ()

theorem readRegFrames_crcBlind (a : Addr) : CrcBlind 2 (readRegFrames a) :=
  (sendCommandFrame_crcBlind _ _ _).bind fun _ => (frame_crcBlind _).bind fun r => .done r.value

theorem writeRegFrames_crcBlind (a : Addr) (v : RegVal) : CrcBlind 2 (writeRegFrames a v) :=
  (sendCommandFrame_crcBlind _ _ _).bind fun _ => (frame_crcBlind _).bind fun r => .done r.ack

theorem chopFrames_crcBlind (en : Bool) (d : BitVec 5) : CrcBlind 4 (chopFrames en d) :=
  (readRegFrames_crcBlind _).bind fun _ => writeRegFrames_crcBlind _ _

/-! ## Whole operations -/

/-- A channel's sample is not in Word 5 (R34, R81). -/
theorem sampleOf_setCrc (rx : Frame) (w : Word) (c : Chan) : sampleOf (rx.set 5 w) c = sampleOf rx c :=
  congrArg decode24 (getElem_setCrc rx w (j := c.toNat + 1) (by omega))

/-- An outcome and its like of a run with the other Words 5, `c` being the last of them. -/
def CrcOutcomes (c : Word) (o o' : Host.Outcome State Fault Refusal) : Prop :=
  ∃ t t', o = .next t ∧ o' = .next t' ∧ t' = withCrc c t'.trace t ∧
    t'.trace.map eraseReceived = t.trace.map eraseReceived

/-- An operation whose record is made of its value and of Words 0 to 4. -/
theorem hostOp_crcOutcomes {α : Type} {f : State → Reply α} {mk : Nat → Result} {m n : Nat} {cause : α → Cause}
    {res : α → Frame → Result} {xs : List (Frame × Word)} {last : Frame × Word} {rest : List Answer} {s : State}
    (hf : CrcBlind n f) (hn : xs.length + 1 = n) (hb : s.busy = false)
    (hres : ∀ a rx c, res a (rx.set 5 c) = res a rx) :
    CrcOutcomes last.2
      (hostOp (fun u => finish (f u) mk m fun a u => deliver (cause a) (res a u.rx) u)
        { s with answers := plainAnswers (xs ++ [last]) ++ rest })
      (hostOp (fun u => finish (f u) mk m fun a u => deliver (cause a) (res a u.rx) u)
        { s with answers := otherAnswers (xs ++ [last]) ++ rest }) := by
  have hstart : CrcApart s.rx[5] ((xs ++ [last]) ++ []) rest
      (beginOp { s with answers := plainAnswers (xs ++ [last]) ++ rest })
      (beginOp { s with answers := otherAnswers (xs ++ [last]) ++ rest }) := by
    rw [List.append_nil]
    exact ⟨rfl, by simp [withCrc, beginOp], rfl⟩
  obtain ⟨a, u, u', hdone, hdone', hplain, hother, hsent⟩ := hf _ _ _ _ _ _ (by simpa using hn) hstart
  have hcrc : crcAfter s.rx[5] (xs ++ [last]) = last.2 := by simp [crcAfter]
  rw [hcrc] at hother
  refine ⟨_, _, hostOp_done hb hdone, hostOp_done hb hdone', ?_, hsent⟩
  have hrecord : res a u'.rx = res a u.rx := by
    rw [hother]; exact hres a u.rx last.2
  rw [hrecord, deliver_trace]
  conv_lhs => rw [hother]
  simp [withCrc, deliver, hplain, plainAnswers, otherAnswers]

/-- Settles O54: each operation by the frames it makes and what its record is made of. -/
theorem crcWordIsNotExamined : Obligations.CrcWordIsNotExamined := by
  intro i xs last rest s hwf hx hn hb
  have key : CrcOutcomes last.2 (exec i { s with answers := plainAnswers (xs ++ [last]) ++ rest })
      (exec i { s with answers := otherAnswers (xs ++ [last]) ++ rest }) := by
    cases i
    case xchgFrame cmd => exact absurd rfl (hx cmd)
    case sendCommand k a v =>
      exact hostOp_crcOutcomes (cause := fun _ => .none) (res := fun _ _ => .none) (sendCommandFrame_crcBlind k a v) hn hb
        fun _ _ _ => rfl
    case fetchResponse =>
      exact hostOp_crcOutcomes (cause := fun _ => .none) (res := fun r _ => .resp r) (frame_crcBlind _) hn hb
        fun _ _ _ => rfl
    case readChannels idx =>
      exact hostOp_crcOutcomes (cause := fun _ => .none) (res := fun _ rx => .samples (idx.map (sampleOf rx)))
        (frame_crcBlind _) hn hb fun _ rx w => by rw [funext (sampleOf_setCrc rx w)]
    case readChannelSingle c =>
      exact hostOp_crcOutcomes (cause := fun _ => .none) (res := fun _ rx => .sample (sampleOf rx c))
        (frame_crcBlind _) hn hb fun _ rx w => by rw [sampleOf_setCrc]
    case readReg a =>
      exact hostOp_crcOutcomes (cause := fun _ => .none) (res := fun v _ => .value v) (readRegFrames_crcBlind a) hn hb
        fun _ _ _ => rfl
    case writeReg | setGain =>
      exact hostOp_crcOutcomes (cause := ackCause) (res := fun ack _ => .success (successOf (ackCause ack)))
        (writeRegFrames_crcBlind _ _) hn hb fun _ _ _ => rfl
    case globalChop en d =>
      have hd : legalDelay d = true := hwf
      simp only [exec, execGlobalChop, hd, if_true]
      exact hostOp_crcOutcomes (cause := ackCause) (res := fun ack _ => .success (successOf (ackCause ack)))
        (chopFrames_crcBlind en d) hn hb fun _ _ _ => rfl
    all_goals cases hn
  exact key

end Sys2Proof.Machine
end

section
/-! Settles the statements of the sample decoders, `DecodeTwentyFourIsTwosComplement`, `DecodeTwentyFourIsAdditiveInRange`,
`ContainerDecodeIsExactOnZeroPadding` and `ContainerRoundingsDifferOnNegativePadding`, and
`SamplingReturnsTheRequestedChannels`. The decoders are compared by their numbers: `DECODE24` keeps the number of its Word,
the floor reading of a container is the floor of its number by 256, and the truncated one is one more exactly where the
number is negative and no multiple of 256. -/

namespace Sys2Proof

/-! ## `DECODE24` (R83, R86) -/

/-- The sign extension keeps the number of the Word (R83). -/
@[simp] theorem decode24_toInt (w : Word) : (decode24 w).toInt = w.toInt :=
  BitVec.toInt_signExtend_of_le (by omega)

/-- The low 24 bits of a decoded Word are the Word (R86). -/
@[simp] theorem setWidth_decode24 (w : Word) : (decode24 w).setWidth 24 = w := by
  ext i hi
  simp [decode24, BitVec.getElem_signExtend, hi, show i < 32 by omega]

theorem decode24_injective : Function.Injective decode24 :=
  Function.LeftInverse.injective setWidth_decode24

/-- Settles O17: the range and the sum law are those of 24-bit numbers. -/
theorem decodeTwentyFourIsAdditiveInRange : Obligations.DecodeTwentyFourIsAdditiveInRange := by
  refine ⟨fun w => ?_, fun a b hlo hhi => ?_⟩
  · have hlo : -8388608 ≤ w.toInt := w.le_toInt
    have hhi : w.toInt < 8388608 := w.toInt_lt
    rw [decode24_toInt]
    exact ⟨hlo, Int.le_of_lt_add_one hhi, setWidth_decode24 w⟩
  · simp only [decode24_toInt] at hlo hhi ⊢
    rw [BitVec.toInt_add]
    exact Int.bmod_eq_of_le hlo (Int.lt_of_le_of_lt hhi (by decide))

/-! ## `DECODE32` (R84, R85) -/

/-- The floor reading is the arithmetic shift, for every container (R85). -/
theorem decode32_floor_eq_sshiftRight (x : Container) : decode32 x .floor = x.sshiftRight 8 := by
  rw [decode32, Int.fdiv_eq_ediv_of_nonneg _ (by decide), BitVec.sshiftRight_eq, Int.shiftRight_eq_div_pow]
  rfl

theorem decode32_floor_toInt (x : Container) : (decode32 x .floor).toInt = x.toInt / 256 := by
  rw [decode32_floor_eq_sshiftRight, BitVec.toInt_sshiftRight, Int.shiftRight_eq_div_pow]
  rfl

/-- The truncated reading is one above the floor where a negative number is no multiple of 256 (R85). -/
theorem decode32_trunc_toInt (x : Container) :
    (decode32 x .trunc).toInt = x.toInt / 256 + if 0 ≤ x.toInt ∨ 256 ∣ x.toInt then 0 else 1 := by
  have hlo : -2147483648 ≤ x.toInt := x.le_toInt
  have hhi : x.toInt < 2147483648 := x.toInt_lt
  have hdiv : x.toInt.tdiv 256 = x.toInt / 256 + if 0 ≤ x.toInt ∨ 256 ∣ x.toInt then 0 else 1 := Int.tdiv_eq_ediv
  rw [decode32, BitVec.toInt_ofInt_eq_self (by omega) (by omega) (by omega), hdiv]

theorem decode32_trunc_eq_floor_iff (x : Container) :
    decode32 x .trunc = decode32 x .floor ↔ 0 ≤ x.toInt ∨ 256 ∣ x.toInt := by
  rw [← BitVec.toInt_inj, decode32_trunc_toInt, decode32_floor_toInt]
  split <;> simp [*]

/-- The padding of a container is zero where its number is a multiple of 256 (R84). -/
theorem padding_eq_zero_iff (x : Container) : x.extractLsb' 0 8 = 0 ↔ 256 ∣ x.toInt := by
  rw [← BitVec.toNat_inj, BitVec.extractLsb'_toNat, BitVec.toInt_eq_toNat_cond]
  simp only [Nat.shiftRight_zero, BitVec.ofNat_eq_ofNat, BitVec.toNat_ofNat]
  omega

/-- The floor reading is the sign extension of the Word in bits 31:8, whatever the padding (R85). -/
theorem decode32_floor_eq_decode24 (x : Container) : decode32 x .floor = decode24 (x.extractLsb' 8 24) := by
  rw [decode32_floor_eq_sshiftRight]
  ext i hi
  have hword : 8 + i < 32 ↔ i < 24 := by omega
  simp only [decode24, BitVec.getElem_sshiftRight, BitVec.getElem_signExtend, hword]
  by_cases hlow : i < 24
  · simp [hlow, BitVec.getLsbD_eq_getElem (hword.2 hlow)]
  · simp [hlow, BitVec.msb_eq_getLsbD_last]

/-- On zero padding the two roundings agree (R84, R85). -/
theorem decode32_eq_floor {x : Container} (hx : x.extractLsb' 0 8 = 0) (r : Rounding) :
    decode32 x r = decode32 x .floor := by
  cases r with
  | trunc => exact (decode32_trunc_eq_floor_iff x).2 (.inr ((padding_eq_zero_iff x).1 hx))
  | floor => rfl

/-- Settles O19: the sign bit of the container is the sign of its number. -/
theorem containerRoundingsDifferOnNegativePadding : Obligations.ContainerRoundingsDifferOnNegativePadding := by
  refine fun x => ⟨?_, decode32_floor_eq_decode24 x⟩
  rw [Ne, decode32_trunc_eq_floor_iff, not_or, Int.not_le, Ne, padding_eq_zero_iff, BitVec.msb_eq_toInt,
    decide_eq_true_iff]

/-! ## The container of a received Word (R64) -/

@[simp] theorem padding_containerOf (w : Word) : (containerOf w).extractLsb' 0 8 = 0 := by
  ext i hi
  simp [containerOf, hi]

@[simp] theorem word_containerOf (w : Word) : (containerOf w).extractLsb' 8 24 = w := by
  ext i hi
  simp [containerOf, show 8 + i < 32 by omega, BitVec.getLsbD_eq_getElem hi]

/-- On the container of a Word both decoders give the same sample, under either rounding (R84). -/
theorem decode32_containerOf (w : Word) (r : Rounding) : decode32 (containerOf w) r = decode24 w := by
  rw [decode32_eq_floor (padding_containerOf w), decode32_floor_eq_decode24, word_containerOf]

/-- Settles O18: on zero padding either rounding is the floor, which the shift and the sign extension are always. -/
theorem containerDecodeIsExactOnZeroPadding : Obligations.ContainerDecodeIsExactOnZeroPadding := by
  refine ⟨fun x r hx => ?_, decode32_containerOf⟩
  rw [decode32_eq_floor hx r]
  refine ⟨?_, decode32_floor_eq_decode24 x, decode32_floor_eq_sshiftRight x⟩
  rw [decode32_floor_toInt]
  exact Int.ediv_mul_cancel ((padding_eq_zero_iff x).1 hx)

/-- Settles O16: the number is that of the 24 bits, and the low 24 bits give the Word back. -/
theorem decodeTwentyFourIsTwosComplement : Obligations.DecodeTwentyFourIsTwosComplement := by
  refine ⟨fun w => ?_, fun _ _ h => decode24_injective h, fun w => (decode32_containerOf w .trunc).symm⟩
  rw [decode24_toInt, BitVec.toInt_eq_toNat_cond]
  omega

end Sys2Proof

namespace Sys2Proof.Machine

/-! ## Sampling (R87 to R89) -/

/-- An operation whose one frame is the null frame, where that frame completes (R89). -/
theorem hostOp_fetch_listed {mk : Nat → Result} {n : Nat} {k : Resp → State → State} {rx : Frame} {rest : List Answer}
    {s : State} (hb : s.busy = false) (ha : s.answers = frameAnswers rx ++ rest) :
    hostOp (fun s => finish (fetchFrame s) mk n k) s =
      .next (k (correlate s.pend rx[0]) (afterFrame (cmdFrame nullWord) rx rest (beginOp s))) :=
  hostOp_done (f := fetchFrame) hb (frame_listed (s := beginOp s) ha)

/-- Settles O25: the samples are read off `RX` after the one null frame. -/
theorem samplingReturnsTheRequestedChannels : Obligations.SamplingReturnsTheRequestedChannels :=
  fun _ _ _ hb ha => ⟨fun _ => hostOp_fetch_listed hb ha, fun _ => hostOp_fetch_listed hb ha⟩

end Sys2Proof.Machine
end

section
/-! Settles `KindOfClassifiesEveryWord` and `AcknowledgementComparesAllBits`. A Word of the form F-CMD gives its bits
23:20 and its address back (`cmdWord_inj`), so the three forms the block builds or expects are apart. -/

namespace Sys2Proof

/-! ## Command Words and acknowledgements (R55, R91 to R93) -/

/-- Bits 23:20 of a Command Word are those it was built with (R55). -/
theorem topBits_cmdWord (p : BitVec 4) (a : Addr) : (cmdWord p a).extractLsb' 20 4 = p := by
  revert p a; decide

theorem addrField_cmdWord (p : BitVec 4) (a : Addr) : addrField (cmdWord p a) = a := by
  revert p a; decide

/-- A Command Word is built in one way only (R55). -/
theorem cmdWord_inj {p q : BitVec 4} {a b : Addr} : cmdWord p a = cmdWord q b ↔ p = q ∧ a = b := by
  refine ⟨fun h => ⟨?_, ?_⟩, fun ⟨hp, ha⟩ => by rw [hp, ha]⟩
  · rw [← topBits_cmdWord p a, h, topBits_cmdWord]
  · rw [← addrField_cmdWord p a, h, addrField_cmdWord]

/-- The form F-CMD as a comparison under `CMD_MASK` (R70). -/
theorem hasPrefix_iff (w : Word) (p : BitVec 4) : hasPrefix w p = true ↔ w &&& cmdMask = cmdWord p 0 := beq_iff_eq

/-- What `KIND_OF` reads back from a built command (R93). -/
theorem kindOf_mkCmd (k : CmdKind) (a : Addr) : kindOf (mkCmd k a) = ⟨if k = .rreg then .rreg else .wreg, a⟩ := by
  cases k with
  | rreg => exact kindOf_mkCmd_rreg a
  | wreg => exact kindOf_mkCmd_wreg a

/-- `KIND_OF` names a command exactly on the Word `MKCMD` builds (R93). -/
theorem kindOf_eq_iff (w : Word) (k : CmdKind) (a : Addr) :
    kindOf w = ⟨if k = .rreg then .rreg else .wreg, a⟩ ↔ w = mkCmd k a := by
  refine ⟨fun h => ?_, fun h => by rw [h, kindOf_mkCmd]⟩
  obtain ⟨-, hread, hwrite⟩ := eq_of_kindOf w
  have hw : w = mkCmd k (addrField w) := by
    cases k with
    | rreg => exact hread (by rw [h]; rfl)
    | wreg => exact hwrite (by rw [h]; rfl)
  rw [hw, kindOf_mkCmd] at h
  rwa [(Pend.mk.inj h).2] at hw

/-- Settles O14: the table is the definition with its constants written out, and a command read back is the one built. -/
theorem kindOfClassifiesEveryWord : Obligations.KindOfClassifiesEveryWord := by
  intro w
  refine ⟨?_, fun a => ⟨kindOf_eq_iff w .rreg a, kindOf_eq_iff w .wreg a⟩⟩
  have hread : cmdWord prefixRreg 0 = 0xA00000 := by decide
  have hwrite : cmdWord prefixWreg 0 = 0x600000 := by decide
  simp only [kindOf, hasPrefix_iff, addrField_eq, hread, hwrite, nullWord, cmdMask]

/-- `ISACK` is equality (R92). -/
theorem isAck_eq_decide (w : Word) (a : Addr) : isAck w a = decide (w = mkAck a) := rfl

theorem isAck_iff (w : Word) (a : Addr) : isAck w a = true ↔ w = mkAck a := beq_iff_eq

theorem mkAck_inj {a b : Addr} : mkAck a = mkAck b ↔ a = b := by simp [mkAck, cmdWord_inj]

/-- A command and an acknowledgement differ in bits 23:20 (R57, R58, R61). -/
theorem mkCmd_ne_mkAck (k : CmdKind) (a b : Addr) : mkCmd k a ≠ mkAck b := by
  intro h
  cases k with
  | rreg => exact absurd (cmdWord_inj.1 h).1 (by decide)
  | wreg => exact absurd (cmdWord_inj.1 h).1 (by decide)

/-- Settles O15: the comparison is equality, and Words of the form F-CMD are equal only with both fields. -/
theorem acknowledgementComparesAllBits : Obligations.AcknowledgementComparesAllBits := by
  intro w a
  have hack : prefixWack.setWidth 24 <<< prefixShift = (0x400000 : Word) := by decide
  refine ⟨?_, isAck_iff w a, fun b => (isAck_iff _ a).trans mkAck_inj, fun k => ?_⟩
  · rw [mkAck, cmdWord, hack]
    rfl
  · rw [isAck_eq_decide, decide_eq_false (mkCmd_ne_mkAck k a a)]

end Sys2Proof
end

section
/-! Settles `XchgFrameReturnsTheSixWords`, `SendCommandSendsOneFrame`, `FetchResponseReturnsTheTaggedWord`,
`ReadRegReturnsTheSecondFramesValue`, `WriteRegSucceedsExactlyOnTheAcknowledgement` and `InterposedFrameTakesTheResponse`.
Where the answers of its frames are listed, each part of an operation ends in the state `afterFrame` gives
(`frame_listed`), and the operation delivers its record there (`hostOp_done`). -/

namespace Sys2Proof.Machine

/-! ## The parts of an operation, their answers listed (R96 to R99) -/

theorem sendFrame_word0 (k : CmdKind) (a : Addr) (v : RegVal) : (sendFrame k a v)[0] = mkCmd k a := by
  cases k <;> rfl

/-- What a frame of `SEND_COMMAND` leaves in `PEND` (R93, R95). -/
theorem kindOf_sendFrame (k : CmdKind) (a : Addr) (v : RegVal) :
    kindOf (sendFrame k a v)[0] = ⟨if k = .rreg then .rreg else .wreg, a⟩ := by
  rw [sendFrame_word0, kindOf_mkCmd]

section Listed
variable {k : CmdKind} {a : Addr} {v : RegVal} {rx rx1 rx2 : Frame} {rest : List Answer} {s : State}

theorem sendCommandFrame_listed (ha : s.answers = frameAnswers rx ++ rest) :
    sendCommandFrame k a v s = .done () (afterFrame (sendFrame k a v) rx rest s) := by
  rw [sendCommandFrame, frame_listed ha, bind_done]

/-- A command frame and the null frame behind it, whose Word 0 answers the command (R98, R99). -/
theorem commandThenFetch_listed {α : Type} {f : Resp → State → Reply α}
    (ha : s.answers = frameAnswers rx1 ++ (frameAnswers rx2 ++ rest)) :
    ((sendCommandFrame k a v s).bind fun _ u => (fetchFrame u).bind f) =
      f (correlate ⟨if k = .rreg then .rreg else .wreg, a⟩ rx2[0])
        (afterFrame (cmdFrame nullWord) rx2 rest
          (afterFrame (sendFrame k a v) rx1 (frameAnswers rx2 ++ rest) s)) := by
  rw [sendCommandFrame_listed ha, bind_done, fetchFrame, frame_listed rfl, bind_done, afterFrame_pend,
    kindOf_sendFrame]

theorem readRegFrames_listed (ha : s.answers = frameAnswers rx1 ++ (frameAnswers rx2 ++ rest)) :
    readRegFrames a s = .done (valueField rx2[0])
      (afterFrame (cmdFrame nullWord) rx2 rest
        (afterFrame (sendFrame .rreg a 0) rx1 (frameAnswers rx2 ++ rest) s)) :=
  commandThenFetch_listed ha

theorem writeRegFrames_listed (ha : s.answers = frameAnswers rx1 ++ (frameAnswers rx2 ++ rest)) :
    writeRegFrames a v s = .done (isAck rx2[0] a)
      (afterFrame (cmdFrame nullWord) rx2 rest
        (afterFrame (sendFrame .wreg a v) rx1 (frameAnswers rx2 ++ rest) s)) :=
  commandThenFetch_listed ha

/-! ## Whole operations -/

theorem exec_sendCommand_listed (hb : s.busy = false) (ha : s.answers = frameAnswers rx ++ rest) :
    exec (.sendCommand k a v) s =
      .next (deliver .none .none (afterFrame (sendFrame k a v) rx rest (beginOp s))) :=
  hostOp_done hb (sendCommandFrame_listed (s := beginOp s) ha)

theorem exec_fetchResponse_listed (hb : s.busy = false) (ha : s.answers = frameAnswers rx ++ rest) :
    exec .fetchResponse s =
      .next (deliver .none (.resp (correlate s.pend rx[0]))
        (afterFrame (cmdFrame nullWord) rx rest (beginOp s))) :=
  hostOp_fetch_listed hb ha

end Listed

/-- Settles O22: the one frame has its Word 0 from the operand and null fillers behind it. -/
theorem xchgFrameReturnsTheSixWords : Obligations.XchgFrameReturnsTheSixWords :=
  fun cmd _ _ s hb ha => hostOp_done (f := frame (cmdFrame cmd)) hb (frame_listed (s := beginOp s) ha)

/-- Settles O23: the two forms are the two frames of `SEND_COMMAND`. -/
theorem sendCommandSendsOneFrame : Obligations.SendCommandSendsOneFrame :=
  fun a v _ _ _ hb ha => ⟨exec_sendCommand_listed hb ha, exec_sendCommand_listed hb ha,
    kindOf_sendFrame .rreg a v, kindOf_sendFrame .wreg a v⟩

/-- Settles O24: the record is `CORRELATE` of the received Word 0, field by field. -/
theorem fetchResponseReturnsTheTaggedWord : Obligations.FetchResponseReturnsTheTaggedWord := by
  intro rx rest s hb ha
  rw [exec_fetchResponse_listed hb ha, correlate, isAck_eq_decide]
  rfl

/-- Settles O26: the value is the field of the second frame's Word 0. -/
theorem readRegReturnsTheSecondFramesValue : Obligations.ReadRegReturnsTheSecondFramesValue :=
  fun _ _ _ _ s hb ha => hostOp_done hb (readRegFrames_listed (s := beginOp s) ha)

/-- The record of a write by the Word 0 received (R99, R131). -/
theorem deliverAck_isAck (w : Word) (a : Addr) (s : State) : deliverAck (isAck w a) s =
    deliver (if w = mkAck a then .none else .ackMismatch) (.success (decide (w = mkAck a))) s := by
  rw [deliverAck, successOf_ackCause, isAck_eq_decide, ackCause]
  simp only [decide_eq_true_eq]

/-- Settles O27: the acknowledgement is compared after the two frames, and only the record depends on it. -/
theorem writeRegSucceedsExactlyOnTheAcknowledgement : Obligations.WriteRegSucceedsExactlyOnTheAcknowledgement := by
  intro a v rx1 rx2 rest s hb ha
  have hexec : exec (.writeReg a v) s = _ := hostOp_done hb (writeRegFrames_listed (s := beginOp s) ha)
  rw [hexec, deliverAck_isAck]
  rfl

/-! ## Several operations in a row (R103, R156) -/

theorem runOps_cons {i : Instr} {is : List Instr} {s t : State} (h : exec i s = .next t) :
    runOps (i :: is) s = runOps is t := by
  rw [runOps, h]

/-- After an operation whose frame completed the next one is accepted (R8). -/
theorem not_busy_after_frame {c : Cause} {res : Result} {tx rx : Frame} {rest : List Answer} {s : State}
    (hb : s.busy = false) : (deliver c res (afterFrame tx rx rest (beginOp s))).busy = false := by
  obtain ⟨hst, -, hw, hr⟩ := (busy_eq_false s).1 hb
  exact (busy_eq_false _).2 ⟨hst, rfl, hw, hr⟩

/-- A fetch behind an operation whose one frame sent `tx`: its Word is tagged with the command of `tx`, whatever the
block had sent before (R94, R103). -/
theorem fetch_after_frame {c : Cause} {res : Result} {tx rx rx' : Frame} {rest : List Answer} {s : State}
    (hb : s.busy = false) :
    ∃ t, runOps [.fetchResponse] (deliver c res (afterFrame tx rx (frameAnswers rx' ++ rest) (beginOp s))) = .next t ∧
      t.response = some ⟨.none, none, .resp (correlate (kindOf tx[0]) rx'[0])⟩ :=
  ⟨_, runOps_cons (exec_fetchResponse_listed (not_busy_after_frame hb) rfl), rfl⟩

/-- Settles O55: the fetch answers the frame just before it, a sampling operation's null frame or the second command. -/
theorem interposedFrameTakesTheResponse : Obligations.InterposedFrameTakesTheResponse := by
  intro k k' a a' v v' idx rx1 rx2 rx3 rest s hb ha
  have hfirst := exec_sendCommand_listed (k := k) (a := a) (v := v) hb ha
  have hb1 := not_busy_after_frame (c := .none) (res := .none) (tx := sendFrame k a v) (rx := rx1)
    (rest := frameAnswers rx2 ++ (frameAnswers rx3 ++ rest)) hb
  rw [runOps_cons hfirst, runOps_cons hfirst]
  constructor
  · have hsample : exec (.readChannels idx) _ = _ := hostOp_fetch_listed hb1 rfl
    rw [runOps_cons hsample, ← kindOf_nullWord]
    exact fetch_after_frame hb1
  · rw [runOps_cons (exec_sendCommand_listed hb1 rfl), ← kindOf_sendFrame k' a' v']
    exact fetch_after_frame hb1

end Sys2Proof.Machine
end

section
/-! Settles `SecondFrameFaultMakesNoFurtherFrame` and `CorrelatorAfterEachOperation`. An operation whose second frame stops is
at its end (`exec_stopped_second`), so a fault there leaves what the fault exit makes of the state at the stopped frame. An
operation leaves in `PEND` the command of its last frame, or none after a transport fault. -/

namespace Sys2Proof.Machine

/-! ## A fault in the second frame (R79, R101) -/

/-- Settles O41: the first frame is whole (`frame_listed`); at the second the fault exit releases what it holds: nothing
before the bus is claimed, the scope at a byte. -/
theorem secondFrameFaultMakesNoFurtherFrame : Obligations.SecondFrameFaultMakesNoFurtherFrame := by
  intro i e rx1 rest s hwf hf hq
  have hb : s.busy = false := not_busy_of_quiescent hq
  obtain ⟨-, -, hw, hst, hr⟩ := id hq
  constructor
  · intro ha
    have hfirst := frame_listed (tx := firstFrame i) (s := beginOp s) ha
    have hexec := exec_stopped_second hwf hf hb hfirst (frame_unclaimed (x := some e) rfl)
    generalize hv : frameUnclaimed _ _ _ = v at hexec
    have hsel : v.sel = false := by subst hv; rfl
    refine ⟨_, _, hexec, raise_response _ _ _ v, fun _ => drawnBy_success, ?_, raise_pend _ _ _ v, ?_, ?_⟩
    · subst hv
      exact quiescent_raise rfl hw hst hr
    · rw [opStop_some, raise_trace, hsel]
      subst hv
      exact List.append_nil _
    · rw [opStop_some, raise_answers, raise_sclkHz, raise_clkinHz, raise_requests, raise_device, hsel]
      subst hv
      exact ⟨rfl, rfl, rfl, rfl, rfl⟩
  · intro k rx2 ha
    have hfirst := frame_listed (tx := firstFrame i) (s := beginOp s) ha
    obtain ⟨r, rd, hsecond⟩ := frame_cut (tx := cmdFrame nullWord) (x := some e)
      (s := afterFrame (firstFrame i) rx1 (cutAnswers rx2 k (.fault e) ++ rest) (beginOp s)) rfl
    have hexec := exec_stopped_second hwf hf hb hfirst hsecond
    generalize hv : frameCut _ _ _ _ _ _ _ = v at hexec
    have hsel : v.sel = true := by subst hv; rfl
    have hanswers : v.answers = rest := by subst hv; exact drop_cutAnswers rx2 k (.fault e) rest
    refine ⟨_, _, hexec, raise_response _ _ _ v, fun _ => drawnBy_success, ?_, raise_pend _ _ _ v, ?_, ?_, ?_⟩
    · subst hv
      exact quiescent_raise rfl hw hst hr
    · rw [opStop_some, raise_seq]
      subst hv
      rfl
    · rw [opStop_some, raise_trace, hsel]
      subst hv
      rfl
    · rw [opStop_some, raise_answers, raise_sclkHz, raise_clkinHz, raise_requests, hanswers]
      subst hv
      exact ⟨rfl, rfl, rfl, rfl⟩

/-! ## The correlator register after an operation (R95, R104) -/

/-- An operation that stopped and left a record has cleared `PEND`: a stall leaves no record (R79, R80). -/
theorem opStop_pend {x : Stop} {mk : Nat → Result} {n : Nat} {v : State} {r : Response} (hv : v.response = none)
    (hr : (opStop x mk n v).response = some r) : (opStop x mk n v).pend = ⟨.none, 0⟩ := by
  cases x with
  | none => rw [opStop_none, hang_response, hv] at hr; cases hr
  | some e => exact raise_pend e mk n v

/-- The correlator after an operation with frames, by its two ends: a transport fault clears it, and so does every
operation but the two whose last frame carries a command (R104). -/
theorem OpEnds.pend {i : Instr} {s t : State} {r : Response} (h : OpEnds i s t) (hs : s.response = none)
    (hr : t.response = some r) : (r.cause = .transportFault → t.pend = ⟨.none, 0⟩) ∧
      ((∀ cmd, i ≠ .xchgFrame cmd) → (∀ k a v, i ≠ .sendCommand k a v) → t.pend = ⟨.none, 0⟩) := by
  cases h with
  | done c res u _ hc _ _ hpend =>
    refine ⟨fun hcause => ?_, hpend⟩
    cases hr
    exact absurd hcause hc
  | stop m tx x u v mk n _ hframes hstop =>
    have hv : v.response = none := (frame_stopped_response hstop).trans (hframes.response.trans hs)
    exact ⟨fun _ => opStop_pend hv hr, fun _ _ => opStop_pend hv hr⟩

theorem endOp_pend (op : Instr) (r : Resp) (s : State) : (endOp op r s).pend = s.pend := by
  cases op <;> rfl

/-- Only a host operation has a frame list; a Word of the wire is part of a frame (R69). -/
theorem isHostOp_of_framesOf {i : Instr} (hf : 0 < framesOf i) : isHostOp i = true := by
  cases i
  case null | rreg | wreg | wdata | wack | rdata | status | chdata | crc => cases hf
  all_goals rfl

/-- An operation of one frame that ends without a transport fault leaves the class of the Word 0 it sent (R95). -/
theorem exec_oneFrame_pend {i : Instr} {s t : State} {r : Response} (hf : framesOf i = 1) (he : exec i s = .next t)
    (hr : t.response = some r) (hc : r.cause ≠ .transportFault) :
    t.pend = kindOf (firstFrame i)[0] := by
  have hhost : isHostOp i = true := isHostOp_of_framesOf (by omega)
  rw [exec_oneFrame hf (exec_ends hhost he).1] at he
  rcases frame_done_or_stopped (firstFrame i) (beginOp s) with ⟨rx, hframe⟩ | ⟨x, v, hframe⟩ <;>
    rw [hframe] at he <;> cases he
  · rw [finish_done, endOp_pend, afterFrame_pend]
  · rw [finish_stopped] at hr
    exact absurd (opStop_cause (frame_stopped_response hframe) hr) hc

/-- The correlator is Idle after the null command only (R21, R93). -/
theorem pstateOf_kindOf_idle_iff (w : Word) : pstateOf (kindOf w) = .idle ↔ w = nullWord := by
  have hidle : pstateOf (kindOf w) = .idle ↔ (kindOf w).kind = .none := by
    unfold pstateOf
    split <;> simp [*]
  refine hidle.trans ⟨(eq_of_kindOf w).1, fun h => ?_⟩
  rw [h, kindOf_nullWord]

theorem pstateOf_sendFrame (k : CmdKind) (a : Addr) (v : RegVal) :
    pstateOf (kindOf (sendFrame k a v)[0]) = .commandSent := by
  rw [kindOf_sendFrame]
  cases k <;> rfl

/-- Settles O51: the operations of one frame by what they sent, the others by how they end. -/
theorem correlatorAfterEachOperation : Obligations.CorrelatorAfterEachOperation := by
  intro s t r hr
  refine ⟨?_, ?_, ?_, ?_, ?_⟩
  · intro k a v he hc
    have hpend : t.pend = kindOf (sendFrame k a v)[0] := exec_oneFrame_pend rfl he hr (by rw [hc]; decide)
    exact ⟨hpend.trans (kindOf_sendFrame k a v), by rw [hpend, pstateOf_sendFrame]⟩
  · intro cmd he hc
    have hpend : t.pend = kindOf cmd := exec_oneFrame_pend rfl he hr (by rw [hc]; decide)
    exact ⟨hpend, by rw [hpend]; exact pstateOf_kindOf_idle_iff cmd⟩
  · rintro hz (he | he)
    · rw [exec, execSetSclk] at he
      obtain ⟨-, rfl⟩ := hostOp_ok he
      rfl
    · rw [exec, execSetClkin] at he
      obtain ⟨-, rfl⟩ := hostOp_ok he
      rfl
  · intro i hi he hc
    obtain ⟨-, ⟨hz, rfl, rfl⟩ | ⟨hz, rfl, rfl⟩ | ⟨-, -, hends⟩⟩ := exec_ends hi he
    · cases hr; cases hc
    · cases hr; cases hc
    · exact (hends.pend rfl hr).1 hc
  · intro i hi he
    have hop : 0 < framesOf i ∧ (∀ cmd, i ≠ .xchgFrame cmd) ∧ ∀ k a v, i ≠ .sendCommand k a v := by
      rcases hi with rfl | ⟨idx, rfl⟩ | ⟨c, rfl⟩ | hf
      · exact ⟨Nat.one_pos, nofun, nofun⟩
      · exact ⟨Nat.one_pos, nofun, nofun⟩
      · exact ⟨Nat.one_pos, nofun, nofun⟩
      · refine ⟨by omega, ?_, ?_⟩
        · rintro cmd rfl; exact absurd hf (Nat.lt_irrefl 1)
        · rintro k a v rfl; exact absurd hf (Nat.lt_irrefl 1)
    obtain ⟨hframes, hxchg, hsend⟩ := hop
    obtain ⟨-, ⟨hz, rfl, -⟩ | ⟨hz, rfl, -⟩ | ⟨-, -, hends⟩⟩ := exec_ends (isHostOp_of_framesOf hframes) he
    · cases hframes
    · cases hframes
    · exact (hends.pend rfl hr).2 hxchg hsend

end Sys2Proof.Machine
end

section
/-! Settles `GainPackingIsABijection` and `ChopPackingReplacesOnlyItsFields`. A packed gain setting is its four gains one
behind the other (`packGain_eq_append`). A packed chop setting is the kept bits of the old value beside a setting that does
not depend on them (`packChop_eq_kept_or`), so it depends on the old value by those bits alone. -/

namespace Sys2Proof

/-! ## `PACK_GAIN` (R105) -/

/-- The register value is the four gains, gain 3 in the highest nibble (R65, R105). -/
theorem packGain_eq_append (g0 g1 g2 g3 : Gain) : packGain g0 g1 g2 g3 = g3 ++ g2 ++ g1 ++ g0 := by
  have happend := BitVec.setWidth_append_append_append_eq_shiftLeft_setWidth_or
    (w'''' := 16) (b := g3) (b' := g2) (b'' := g1) (b''' := g0)
  exact (packGain_eq g0 g1 g2 g3).trans (happend.symm.trans (BitVec.setWidth_eq _))

/-- Settles O20: the fields of an append are its parts, and a value is the append of its nibbles. -/
theorem gainPackingIsABijection : Obligations.GainPackingIsABijection := by
  refine ⟨fun g0 g1 g2 g3 => ?_, fun v => ?_, by decide⟩
  · rw [packGain_eq_append]
    refine ⟨BitVec.extractLsb'_append_eq_right, ?_, ?_, ?_⟩
    · rw [BitVec.extractLsb'_append_eq_of_le (by decide)]
      exact BitVec.extractLsb'_append_eq_right
    · rw [BitVec.extractLsb'_append_eq_of_le (by decide), BitVec.extractLsb'_append_eq_of_le (by decide)]
      exact BitVec.extractLsb'_append_eq_right
    · rw [BitVec.extractLsb'_append_eq_of_le (by decide), BitVec.extractLsb'_append_eq_of_le (by decide)]
      exact BitVec.extractLsb'_append_eq_left
  · have htop := BitVec.extractLsb'_append_extractLsb'_eq_extractLsb' (x := v) (start₂ := 12) (len₂ := 4)
      (start₁ := 8) (len₁ := 4) rfl
    have hthree := BitVec.extractLsb'_append_extractLsb'_eq_extractLsb' (x := v) (start₂ := 8) (len₂ := 4 + 4)
      (start₁ := 4) (len₁ := 4) rfl
    have hall := BitVec.extractLsb'_append_extractLsb' (x := v) (w := 4 + 4 + 4) (len := 4)
    rw [packGain_eq_append, htop, hthree]
    exact hall

/-! ## `PACK_CHOP` (R107) -/

/-- The bits `PACK_CHOP` writes, the same whatever the register held (R66, R107). -/
def chopBits (en : Bool) (d : BitVec 5) : RegVal := chopDlyField d ||| chopEnField en

theorem packChop_eq_kept_or (old : RegVal) (en : Bool) (d : BitVec 5) :
    packChop old en d = (old &&& cfgKeepMask) ||| chopBits en d :=
  BitVec.or_assoc ..

/-- The written bits lie outside the kept ones (R67). -/
theorem chopBits_and_keep (en : Bool) (d : BitVec 5) : chopBits en d &&& cfgKeepMask = 0 := by
  revert en d; decide

theorem chopBits_delay (en : Bool) {d : BitVec 5} (hd : legalDelay d = true) :
    ((chopBits en d).extractLsb' 12 4).toNat = d.toNat - 1 := by
  revert en d; decide

theorem chopBits_enable (en : Bool) (d : BitVec 5) : (chopBits en d).getLsbD 8 = en := by
  revert en d; decide

/-- `PACK_CHOP` keeps the bits of `CFG_KEEP_MASK` (R107, D17). -/
theorem packChop_and_keep (old : RegVal) (en : Bool) (d : BitVec 5) :
    packChop old en d &&& cfgKeepMask = old &&& cfgKeepMask := by
  rw [packChop_eq_kept_or, BitVec.and_or_distrib_right, chopBits_and_keep, BitVec.and_assoc, BitVec.and_self]
  exact BitVec.or_zero

/-- No other bit of the old value has influence (R107). -/
theorem packChop_congr {old old' : RegVal} (h : old' &&& cfgKeepMask = old &&& cfgKeepMask) (en : Bool) (d : BitVec 5) :
    packChop old' en d = packChop old en d := by
  rw [packChop_eq_kept_or, h, ← packChop_eq_kept_or]

/-- Bits 15:12 are those of the new setting: none of them is kept. -/
theorem packChop_delay (old : RegVal) (en : Bool) (d : BitVec 5) :
    (packChop old en d).extractLsb' 12 4 = (chopBits en d).extractLsb' 12 4 := by
  have hmask : cfgKeepMask.extractLsb' 12 4 = 0 := by decide
  rw [packChop_eq_kept_or, BitVec.extractLsb'_or, BitVec.extractLsb'_and, hmask]
  simp

/-- Bit 8 is that of the new setting: it is not kept. -/
theorem packChop_enable (old : RegVal) (en : Bool) (d : BitVec 5) : (packChop old en d).getLsbD 8 = en := by
  have hmask : cfgKeepMask.getLsbD 8 = false := by decide
  rw [packChop_eq_kept_or, BitVec.getLsbD_or, BitVec.getLsbD_and, hmask, chopBits_enable, Bool.and_false, Bool.false_or]

/-- Settles O21: packing again finds the same kept bits, so idempotence is a case of the last clause. -/
theorem chopPackingReplacesOnlyItsFields : Obligations.ChopPackingReplacesOnlyItsFields := by
  intro old en d hd
  refine ⟨?_, packChop_enable old en d, packChop_and_keep old en d, ?_, fun old' h => packChop_congr h en d⟩
  · rw [packChop_delay, chopBits_delay en hd]
  · exact packChop_congr (packChop_and_keep old en d) en d

end Sys2Proof
end

section
/-! Settles `SetGainWritesThePackedGains`, `GlobalChopWritesBackTheMergedValue`, `GlobalChopPreservesUnrelatedBits`,
`SetSclkSetsTheRateOfLaterFrames` and `SetClkinChangesOnlyItsRegister`. `SET_GAIN` is a register write, and `GLOBAL_CHOP` a
register read and a register write of the merged value: their parts are followed once with the answers listed and once with
the reference device answering. Every frame begins with a `BusConfigure` at `SCLK_HZ`. -/

namespace Sys2Proof.Machine

/-! ## Frames answered by a list (R106, R108) -/

/-- Settles O28: `SET_GAIN` is `WRITE_REG` of the packed gains. -/
theorem setGainWritesThePackedGains : Obligations.SetGainWritesThePackedGains :=
  fun g0 g1 g2 g3 rx1 rx2 rest s hb ha => (derivedOperationsAreTheirExpansions.1 g0 g1 g2 g3 s).trans
    (writeRegSucceedsExactlyOnTheAcknowledgement Config.addrGain (packGain g0 g1 g2 g3) rx1 rx2 rest s hb ha)

/-- The four frames of `GLOBAL_CHOP`: the value field of frame 2 is the old value of the write in frame 3. -/
theorem chopFrames_listed {en : Bool} {d : BitVec 5} {rx1 rx2 rx3 rx4 : Frame} {rest : List Answer} {s : State}
    (ha : s.answers = frameAnswers rx1 ++ (frameAnswers rx2 ++ (frameAnswers rx3 ++ (frameAnswers rx4 ++ rest)))) :
    chopFrames en d s = .done (isAck rx4[0] Config.addrCfg)
      (afterFrame (cmdFrame nullWord) rx4 rest
        (afterFrame (sendFrame .wreg Config.addrCfg (packChop (valueField rx2[0]) en d)) rx3 (frameAnswers rx4 ++ rest)
          (afterFrame (cmdFrame nullWord) rx2 (frameAnswers rx3 ++ (frameAnswers rx4 ++ rest))
            (afterFrame (sendFrame .rreg Config.addrCfg 0) rx1
              (frameAnswers rx2 ++ (frameAnswers rx3 ++ (frameAnswers rx4 ++ rest))) s)))) := by
  rw [chopFrames, readRegFrames_listed ha, bind_done, writeRegFrames_listed rfl]

theorem exec_globalChop_done {en : Bool} {d : BitVec 5} {s u : State} {ack : Bool} (hd : legalDelay d = true)
    (hb : s.busy = false) (hchop : chopFrames en d (beginOp s) = .done ack u) :
    exec (.globalChop en d) s = .next (deliverAck ack u) := by
  rw [exec, execGlobalChop, if_pos hd]
  exact hostOp_done hb hchop

/-- Settles O29: the four frames, and the record of the comparison in the fourth. -/
theorem globalChopWritesBackTheMergedValue : Obligations.GlobalChopWritesBackTheMergedValue := by
  intro en d rx1 rx2 rx3 rx4 rest s hd hb ha
  rw [exec_globalChop_done hd hb (chopFrames_listed (s := beginOp s) ha), deliverAck_isAck]
  rfl

/-! ## Register access answered by the reference device (R115, R118, R119, R125) -/

/-- The reference device `d` is attached and answers the calls to come. -/
def AnsweredBy (d : Device) (s : State) : Prop := s.answers = [] ∧ s.device = some d

theorem AnsweredBy.afterFrame {d : Device} {s : State} (h : AnsweredBy d s) (tx rx : Frame) :
    AnsweredBy (deviceAfter tx d) (afterFrame tx rx [] s) := by
  refine ⟨rfl, ?_⟩
  rw [afterFrame_device, h.2, Option.map_some]

/-- The device has latched the command of the frame it saw (R125). -/
theorem deviceAfter_pend (t : Frame) (d : Device) : (deviceAfter t d).pend = kindOf t[0] := by
  unfold deviceAfter nextInputs
  split <;> rfl

/-- Word 0 after `RREG a` holds the register (R118). -/
theorem deviceWord0_of_rreg {d : Device} {a : Addr} (h : d.pend = ⟨.rreg, a⟩) :
    deviceWord0 d = wdataWord (memRead d a) := by
  simp only [deviceWord0, h]

/-- Word 0 after `WREG a` is the echo (R119). -/
theorem deviceWord0_of_wreg {d : Device} {a : Addr} (h : d.pend = ⟨.wreg, a⟩) : deviceWord0 d = mkAck a := by
  simp only [deviceWord0, h]

/-- The device after a command frame and the null frame behind it. -/
def deviceAccessed (k : CmdKind) (a : Addr) (v : RegVal) (d : Device) : Device :=
  deviceAfter (cmdFrame nullWord) (deviceAfter (sendFrame k a v) d)

/-- A null frame writes no register (R125). -/
theorem memRead_deviceAfter_null (d : Device) (a : Addr) :
    memRead (deviceAfter (cmdFrame nullWord) d) a = memRead d a := by
  rw [memRead_deviceAfter]
  exact if_neg fun h => absurd h.1 (by decide)

/-- A command frame writes the register a `WREG` names and no other (R118, R119, R125). -/
theorem memRead_deviceAfter_sendFrame (k : CmdKind) (a b : Addr) (v : RegVal) (d : Device) :
    memRead (deviceAfter (sendFrame k a v) d) b = if k = .wreg ∧ b = a then v else memRead d b := by
  rw [memRead_deviceAfter, kindOf_sendFrame]
  cases k with
  | rreg => simp
  | wreg =>
    have hvalue : valueField (sendFrame .wreg a v)[1] = v := valueField_wdataWord v
    simp [hvalue]

theorem memRead_deviceAccessed (k : CmdKind) (a b : Addr) (v : RegVal) (d : Device) :
    memRead (deviceAccessed k a v d) b = if k = .wreg ∧ b = a then v else memRead d b := by
  rw [deviceAccessed, memRead_deviceAfter_null, memRead_deviceAfter_sendFrame]

/-- A command frame and the null frame behind it, answered by the device: Word 0 is what the device returns to the command
(R125). -/
theorem commandThenFetch_device {α : Type} {k : CmdKind} {a : Addr} {v : RegVal} {d : Device} {s : State}
    {f : Resp → State → Reply α} (h : AnsweredBy d s) :
    ∃ u, AnsweredBy (deviceAccessed k a v d) u ∧
      ((sendCommandFrame k a v s).bind fun _ u => (fetchFrame u).bind f) =
        f (correlate ⟨if k = .rreg then .rreg else .wreg, a⟩ (deviceWord0 (deviceAfter (sendFrame k a v) d))) u := by
  have hsent := h.afterFrame (sendFrame k a v) (deviceWords d)
  refine ⟨_, hsent.afterFrame (cmdFrame nullWord) (deviceWords (deviceAfter (sendFrame k a v) d)), ?_⟩
  rw [sendCommandFrame, frame_device h.1 h.2, bind_done, bind_done, fetchFrame, frame_device hsent.1 hsent.2, bind_done,
    afterFrame_pend, kindOf_sendFrame]

/-- A register read from the device returns the register (R98, R118). -/
theorem readRegFrames_device {a : Addr} {d : Device} {s : State} (h : AnsweredBy d s) :
    ∃ u, AnsweredBy (deviceAccessed .rreg a 0 d) u ∧ readRegFrames a s = .done (memRead d a) u := by
  obtain ⟨u, hu, hframes⟩ := commandThenFetch_device (k := .rreg) (a := a) (v := 0)
    (f := fun r s => .done r.value s) h
  have hlatched : (deviceAfter (sendFrame .rreg a 0) d).pend = ⟨.rreg, a⟩ :=
    (deviceAfter_pend _ d).trans (kindOf_sendFrame .rreg a 0)
  have hvalue : valueField (deviceWord0 (deviceAfter (sendFrame .rreg a 0) d)) = memRead d a := by
    rw [deviceWord0_of_rreg hlatched, valueField_wdataWord, memRead_deviceAfter_sendFrame]
    rfl
  refine ⟨u, hu, hframes.trans ?_⟩
  rw [correlate, hvalue]

/-- A register write to the device is acknowledged (R99, R119). -/
theorem writeRegFrames_device {a : Addr} {v : RegVal} {d : Device} {s : State} (h : AnsweredBy d s) :
    ∃ u, AnsweredBy (deviceAccessed .wreg a v d) u ∧ writeRegFrames a v s = .done true u := by
  obtain ⟨u, hu, hframes⟩ := commandThenFetch_device (k := .wreg) (a := a) (v := v)
    (f := fun r s => .done r.ack s) h
  have hlatched : (deviceAfter (sendFrame .wreg a v) d).pend = ⟨.wreg, a⟩ :=
    (deviceAfter_pend _ d).trans (kindOf_sendFrame .wreg a v)
  have hack : isAck (deviceWord0 (deviceAfter (sendFrame .wreg a v) d)) a = true := by
    rw [isAck_iff]
    exact deviceWord0_of_wreg hlatched
  refine ⟨u, hu, hframes.trans ?_⟩
  rw [correlate, hack]

/-! ## `GLOBAL_CHOP` on the reference device (R108, R27) -/

/-- The device after `GLOBAL_CHOP`: the configuration register holds its old value with the chop fields replaced, and the
other registers are as before. -/
theorem chopFrames_device {en : Bool} {d : BitVec 5} {dev : Device} {s : State} (h : AnsweredBy dev s) :
    ∃ u dev', AnsweredBy dev' u ∧ chopFrames en d s = .done true u ∧
      memRead dev' Config.addrCfg = packChop (memRead dev Config.addrCfg) en d ∧
      ∀ a, a ≠ Config.addrCfg → memRead dev' a = memRead dev a := by
  obtain ⟨u, hu, hread⟩ := readRegFrames_device (a := Config.addrCfg) h
  obtain ⟨t, ht, hwrite⟩ := writeRegFrames_device (a := Config.addrCfg)
    (v := packChop (memRead dev Config.addrCfg) en d) hu
  refine ⟨t, _, ht, by rw [chopFrames, hread, bind_done, hwrite], ?_, fun a ha => ?_⟩
  · rw [memRead_deviceAccessed, if_pos ⟨rfl, rfl⟩]
  · rw [memRead_deviceAccessed, if_neg fun hw => ha hw.2, memRead_deviceAccessed, if_neg fun hr => ha hr.2]

/-- Settles O59: what the register holds is `PACK_CHOP` of what it held, whose bits O21 gives. -/
theorem globalChopPreservesUnrelatedBits : Obligations.GlobalChopPreservesUnrelatedBits := by
  intro en d dev s hd hq hdev ha
  have hanswered : AnsweredBy dev (beginOp s) := ⟨ha, hdev⟩
  obtain ⟨u, dev', hu, hchop, hcfg, hother⟩ := chopFrames_device (en := en) (d := d) hanswered
  obtain ⟨hdelay, henable, hkept, -, -⟩ := chopPackingReplacesOnlyItsFields (memRead dev Config.addrCfg) en d hd
  rw [← hcfg] at hdelay henable hkept
  exact ⟨_, dev', exec_globalChop_done hd (not_busy_of_quiescent hq) hchop, rfl, hu.2, hkept, hdelay, henable, hother⟩

/-! ## The clock rates (R109, R110, R77) -/

/-- The first event after `s` in the wire trace of `t` is a `BusConfigure` at the rate `SCLK_HZ` had in `s`. -/
def ConfiguresFirst (s t : State) : Prop :=
  ∃ out es, t.trace = s.trace ++ .busConfigure s.sclkHz .msbFirst Config.busMode out :: es

theorem ConfiguresFirst.append {s t u : State} {es : List Event} (h : ConfiguresFirst s t)
    (hu : u.trace = t.trace ++ es) : ConfiguresFirst s u := by
  obtain ⟨out, es', ht⟩ := h
  exact ⟨out, es' ++ es, by rw [hu, ht, List.append_assoc, List.cons_append]⟩

/-- The bus is configured before anything else of a frame, whether the frame completes or stops (R77). -/
theorem frame_configuresFirst (tx : Frame) (s : State) :
    (∃ r u, frame tx s = .done r u ∧ ConfiguresFirst s u) ∨
    ∃ x u, frame tx s = .stopped x u ∧ ConfiguresFirst s u := by
  rcases frame_ends tx s with ⟨rx, h⟩ | ⟨x, h⟩ | ⟨rx, r, rd, k, x, h⟩
  · exact .inl ⟨_, _, h, .ok, _, rfl⟩
  · exact .inr ⟨x, _, h, stopBus x, [], rfl⟩
  · exact .inr ⟨x, _, h, .ok, _, rfl⟩

/-- The end of a stopped operation only adds to the trace: the scope released, or nothing (R79, R80). -/
theorem opStop_configuresFirst {s v : State} (h : ConfiguresFirst s v) (x : Stop) (mk : Nat → Result) (n : Nat) :
    ConfiguresFirst s (opStop x mk n v) := by
  cases x with
  | none => exact h
  | some e => exact h.append (raise_trace e mk n v)

/-- `XCHG_FRAME` configures the bus at `SCLK_HZ`, however it ends (R77, R100). -/
theorem xchgFrame_configuresFirst {cmd : Word} {s t : State} (he : exec (.xchgFrame cmd) s = .next t) :
    ConfiguresFirst s t := by
  rw [exec, execXchgFrame] at he
  obtain ⟨-, rfl⟩ := hostOp_ok he
  rcases frame_configuresFirst (cmdFrame cmd) (beginOp s) with ⟨r, u, hf, hu⟩ | ⟨x, u, hf, hu⟩ <;> rw [hf]
  · exact hu
  · rw [finish_stopped]
    exact opStop_configuresFirst hu x drawFrame 7

theorem exec_setSclk {hz : Hz} {s : State} (hb : s.busy = false) :
    exec (.setSclk hz) s = .next (deliver .none .none { beginOp s with sclkHz := hz }) := by
  rw [exec, execSetSclk, hostOp_next hb]

theorem exec_setClkin {hz : Hz} {s : State} (hb : s.busy = false) :
    exec (.setClkin hz) s = .next (deliver .none .none { beginOp s with clkinHz := hz }) := by
  rw [exec, execSetClkin, hostOp_next hb]

/-- Settles O31: the operand is in `SCLK_HZ`, and the frame that follows reads the rate there. -/
theorem setSclkSetsTheRateOfLaterFrames : Obligations.SetSclkSetsTheRateOfLaterFrames := by
  intro hz s hb
  refine ⟨exec_setSclk hb, fun cmd t u hset hframe => ?_⟩
  rw [exec_setSclk hb] at hset
  cases hset
  exact xchgFrame_configuresFirst hframe

/-- Settles O32: an accepted setter ends in the state it is defined by. -/
theorem setClkinChangesOnlyItsRegister : Obligations.SetClkinChangesOnlyItsRegister :=
  fun _ _ hb => exec_setClkin hb

end Sys2Proof.Machine
end

section
/-! Settles `ReferenceDeviceStep`, `ReferenceDeviceMeetsTheContract` and `WriteThenReadReturnsTheValue`. Word 0 of the
reference device answers the command latched in the frame before, and only a write command changes a register. An operation
that left a record leaves the block free for the next one, so the device answers operations one after the other. -/

namespace Sys2Proof.Machine

/-! ## One frame of the reference device (R125) -/

/-- The acknowledgement with its constants written out (R61, R119). -/
theorem mkAck_eq (a : Addr) : mkAck a = 0x400000 ||| (a.setWidth 24 <<< 15) := rfl

/-- The four channel Words of the device, in order (R114). -/
theorem deviceWords_channel (d : Device) (c : Fin 4) : (deviceWords d)[c.val + 1] = d.now.ch[c] := by
  match c with
  | 0 | 1 | 2 | 3 => rfl

/-- Settles O56: the Words returned by the latched command and the inputs, the device after the frame by the laws of
`deviceAfter`. -/
theorem referenceDeviceStep : Obligations.ReferenceDeviceStep := by
  refine ⟨fun t d => ⟨?_, deviceWords_channel d, rfl, deviceAfter_pend t d, fun a => memRead_deviceAfter t d a⟩,
    fun reg now later t s => ⟨rfl, rfl, fun _ => rfl, rfl⟩⟩
  show deviceWord0 d = _
  unfold deviceWord0
  cases d.pend.kind with
  | none | other | rreg => rfl
  | wreg => exact mkAck_eq d.pend.addr

/-- Word 0 of the device keeps the contract (R118, R119). -/
theorem honestWord0_deviceWord0 (d : Device) : honestWord0 d.reg d.pend (deviceWord0 d) := by
  unfold honestWord0 deviceWord0
  cases d.pend.kind with
  | none | other => trivial
  | rreg => exact valueField_wdataWord (memRead d d.pend.addr)
  | wreg => rfl

/-- Settles O57: the command latched in one frame is answered in the next. -/
theorem referenceDeviceMeetsTheContract : Obligations.ReferenceDeviceMeetsTheContract := by
  refine fun t d => ⟨honestWord0_deviceWord0 d, fun a hwrite => (isAck_iff _ a).2 ?_⟩
  exact deviceWord0_of_wreg ((deviceAfter_pend t d).trans hwrite)

/-! ## The block is free after an operation (R8, R24) -/

theorem Frames.not_busy {n : Nat} {s t : State} (h : Frames n s t) (hb : s.busy = false) : t.busy = false := by
  induction h with
  | nil => exact hb
  | cons tx rx _ ht _ ih =>
    obtain ⟨hst, -, hw, hr⟩ := (busy_eq_false _).1 (ih hb)
    rw [ht]
    exact (busy_eq_false _).2 ⟨hst, rfl, hw, hr⟩

/-- The fault exit of a frame frees the block (R79). -/
theorem raise_not_busy {tx : Frame} {x : Stop} {u v : State} (h : frame tx u = .stopped x v) (hb : u.busy = false)
    (e : TErr) (mk : Nat → Result) (n : Nat) : (raiseTransportFault e mk n v).busy = false := by
  have hv : v.stalled = u.stalled ∧ v.inWord = u.inWord ∧ v.running = u.running := by
    rcases frame_stopped_cases h with rfl | ⟨rx, r, rd, k, rfl⟩ <;> exact ⟨rfl, rfl, rfl⟩
  obtain ⟨hst, -, hw, hr⟩ := (busy_eq_false u).1 hb
  rw [busy_eq_false, raise_stalled, raise_sel, raise_inWord, raise_running, hv.1, hv.2.1, hv.2.2]
  exact ⟨hst, rfl, hw, hr⟩

theorem OpEnds.not_busy {i : Instr} {s t : State} {r : Response} (h : OpEnds i s t) (hs : s.response = none)
    (hb : s.busy = false) (hr : t.response = some r) : t.busy = false := by
  cases h with
  | done c res u hframes => exact hframes.not_busy hb
  | stop m tx x u v mk n _ hframes hstop =>
    cases x with
    | none =>
      have hv : v.response = none := (frame_stopped_response hstop).trans (hframes.response.trans hs)
      rw [opStop_none, hang_response, hv] at hr
      cases hr
    | some e => exact raise_not_busy hstop (hframes.not_busy hb) e mk n

/-- A host operation that left a record is over: the next one is accepted. -/
theorem exec_not_busy {i : Instr} {s t : State} {r : Response} (hi : isHostOp i = true) (he : exec i s = .next t)
    (hr : t.response = some r) : t.busy = false := by
  obtain ⟨hb, ⟨hz, rfl, rfl⟩ | ⟨hz, rfl, rfl⟩ | ⟨-, -, hends⟩⟩ := exec_ends hi he
  · exact hb
  · exact hb
  · exact hends.not_busy rfl hb hr

/-! ## Operations answered by the reference device (R126) -/

/-- The block accepts an operation and the reference device `d` answers it. -/
def ReadyWith (d : Device) (s : State) : Prop := s.busy = false ∧ AnsweredBy d s

theorem exec_writeReg_device {a : Addr} {v : RegVal} {d : Device} {s : State} (h : ReadyWith d s) :
    ∃ t, exec (.writeReg a v) s = .next t ∧ t.response = some ⟨.none, none, .success true⟩ ∧
      ReadyWith (deviceAccessed .wreg a v d) t := by
  obtain ⟨u, hu, hframes⟩ := writeRegFrames_device (a := a) (v := v) (s := beginOp s) h.2
  have hexec : exec (.writeReg a v) s = .next (deliverAck true u) := hostOp_done h.1 hframes
  exact ⟨_, hexec, rfl, exec_not_busy rfl hexec rfl, hu⟩

theorem exec_readReg_device {a : Addr} {d : Device} {s : State} (h : ReadyWith d s) :
    ∃ t, exec (.readReg a) s = .next t ∧ t.response = some ⟨.none, none, .value (memRead d a)⟩ := by
  obtain ⟨u, -, hframes⟩ := readRegFrames_device (a := a) (s := beginOp s) h.2
  exact ⟨_, hostOp_done h.1 hframes, rfl⟩

theorem exec_readChannels_device {idx : List Chan} {d : Device} {s : State} (h : ReadyWith d s) :
    ∃ t, exec (.readChannels idx) s = .next t ∧ ReadyWith (deviceAfter (cmdFrame nullWord) d) t := by
  have hframe : fetchFrame (beginOp s) = .done _ _ := frame_device h.2.1 h.2.2
  have hexec : exec (.readChannels idx) s = .next _ := hostOp_done h.1 hframe
  exact ⟨_, hexec, exec_not_busy rfl hexec rfl, AnsweredBy.afterFrame (s := beginOp s) h.2 _ (deviceWords d)⟩

/-- Samplings one after the other complete and leave every register of the device as it was (R89, R125). -/
theorem runOps_readChannels_device (idxs : List (List Chan)) {d : Device} {s : State} (h : ReadyWith d s) :
    ∃ t d', runOps (idxs.map .readChannels) s = .next t ∧ ReadyWith d' t ∧ ∀ a, memRead d' a = memRead d a := by
  induction idxs generalizing d s with
  | nil => exact ⟨s, d, rfl, h, fun _ => rfl⟩
  | cons idx idxs ih =>
    obtain ⟨u, hexec, hu⟩ := exec_readChannels_device (idx := idx) h
    obtain ⟨t, d', hrun, ht, hkept⟩ := ih hu
    exact ⟨t, d', (runOps_cons hexec).trans hrun, ht, fun a => (hkept a).trans (memRead_deviceAfter_null d a)⟩

/-- Settles O58: the write puts `v` in the register, the samplings keep it there, and the read returns it. -/
theorem writeThenReadReturnsTheValue : Obligations.WriteThenReadReturnsTheValue := by
  intro a v idxs d s hq hd ha
  obtain ⟨t1, hwrite, hack, h1⟩ := exec_writeReg_device (a := a) (v := v) ⟨not_busy_of_quiescent hq, ha, hd⟩
  obtain ⟨t2, d', hsample, h2, hkept⟩ := runOps_readChannels_device idxs h1
  obtain ⟨t3, hread, hval⟩ := exec_readReg_device (a := a) h2
  have hv : memRead d' a = v := by rw [hkept, memRead_deviceAccessed, if_pos ⟨rfl, rfl⟩]
  exact ⟨t1, t2, t3, hwrite, hack, hsample, hread, hval.trans (by rw [hv])⟩

end Sys2Proof.Machine
end

section
/-! Settles `CausesComeOnlyFromTheirOperations`. By its two ends an operation with frames records `ACK_MISMATCH` only where
it compared an acknowledgement (`OpEnds.isWriteOp_of_ackMismatch`): one that stopped in a frame records the transport fault,
and the correlator after that is the correlator layer's (`OpEnds.pend`). The setters make no frame and record no error. -/

namespace Sys2Proof.Machine

/-- The three operations that compare an acknowledgement (R99, R101, R131). -/
theorem isWriteOp_iff (i : Instr) : isWriteOp i = true ↔
    (∃ a v, i = .writeReg a v) ∨ (∃ g0 g1 g2 g3, i = .setGain g0 g1 g2 g3) ∨ ∃ en d, i = .globalChop en d := by
  constructor
  · intro h
    cases i
    case writeReg a v => exact .inl ⟨a, v, rfl⟩
    case setGain g0 g1 g2 g3 => exact .inr (.inl ⟨g0, g1, g2, g3, rfl⟩)
    case globalChop en d => exact .inr (.inr ⟨en, d, rfl⟩)
    all_goals cases h
  · rintro (⟨a, v, rfl⟩ | ⟨g0, g1, g2, g3, rfl⟩ | ⟨en, d, rfl⟩) <;> rfl

/-- An operation that recorded an acknowledgement mismatch made all its frames and compared an acknowledgement (R131). -/
theorem OpEnds.isWriteOp_of_ackMismatch {i : Instr} {s t : State} {r : Response} (h : OpEnds i s t)
    (hs : s.response = none) (hr : t.response = some r) (hc : r.cause = .ackMismatch) : isWriteOp i = true := by
  cases h with
  | done c res u _ _ hack =>
    cases hr
    exact hack hc
  | stop m tx x u v mk n _ hframes hstop =>
    have hv : v.response = none := (frame_stopped_response hstop).trans (hframes.response.trans hs)
    have hfault : r.cause = .transportFault := opStop_cause hv hr
    rw [hfault] at hc
    cases hc

/-- Settles O45: the setters record no error, and any other operation ends as `OpEnds` says. -/
theorem causesComeOnlyFromTheirOperations : Obligations.CausesComeOnlyFromTheirOperations := by
  intro i s t r hi he hr
  obtain ⟨-, ⟨hz, rfl, rfl⟩ | ⟨hz, rfl, rfl⟩ | ⟨hframes, -, hends⟩⟩ := exec_ends hi he
  · cases hr
    exact ⟨nofun, nofun⟩
  · cases hr
    exact ⟨nofun, nofun⟩
  · have hack (hc : r.cause = .ackMismatch) : isWriteOp i = true := hends.isWriteOp_of_ackMismatch rfl hr hc
    exact ⟨fun hc => (isWriteOp_iff i).1 (hack hc), fun hc => ⟨hframes, (hends.pend rfl hr).1 hc⟩⟩

end Sys2Proof.Machine
end

section
/-! Settles `ResetLeavesTheBlockQuiescentAndIdle`, `ResetMeetsTheInvariant`, `StepWaitsWithoutRequestAndHangsAfterStall` and
`ResetEventOnlyBetweenOperations`: the block at reset, the reset event, and the two states in which a step runs nothing. -/

namespace Sys2Proof.Machine

/-- Settles O1: the reset state holds these values. -/
theorem resetLeavesTheBlockQuiescentAndIdle : Obligations.ResetLeavesTheBlockQuiescentAndIdle :=
  ⟨rfl, rfl, rfl, rfl, rfl, rfl, rfl, rfl, rfl, rfl, rfl, rfl⟩

/-- Settles O2: at reset no event has been made and no scope is held; no operation, record or Word is there. -/
theorem resetMeetsTheInvariant : Obligations.ResetMeetsTheInvariant where
  wire _ := rfl
  going := nofun
  scope := ⟨nofun, fun _ => rfl⟩
  pendAddr _ := rfl
  record := nofun
  noRecord _ := rfl
  waiting := nofun
  atWord := nofun

/-- Settles O6: nothing to fetch, and nothing after a stall. -/
theorem stepWaitsWithoutRequestAndHangsAfterStall : Obligations.StepWaitsWithoutRequestAndHangsAfterStall :=
  ⟨fun _ hst hr hw hsel hreq => Waits.step ⟨hst, hr, hw, hsel, hreq⟩, fun _ => step_of_stalled⟩

/-- Settles O9: a block that is not busy keeps no scope, no Word and no operation, and the reset event sets the rest. -/
theorem resetEventOnlyBetweenOperations : Obligations.ResetEventOnlyBetweenOperations := by
  refine ⟨fun s hb => ?_, fun s hb => if_pos hb⟩
  obtain ⟨hst, -, hw, hr⟩ := (busy_eq_false s).1 hb
  have hidle : ¬ s.busy = true := by simp [hb]
  exact ⟨_, if_neg hidle, rfl, rfl, rfl, rfl, ⟨rfl, rfl, hw, hst, hr⟩, rfl, rfl, rfl, rfl⟩

end Sys2Proof.Machine
end

section
/-! Settles `OperationEndsWhenThePrimitivesComplete`. A function that makes `m` calls completes where the next `m` answers are
good (`Completes`): its calls are those of its parts, so a frame completes with 19. An operation whose frames all complete
ends with its own record (`OpEnds`). -/

namespace Sys2Proof.Machine

/-! ## Acceptance (R8) -/

/-- Every well-formed host operation is a `hostOp`, which a block that is not busy accepts. -/
theorem exec_accepts {i : Instr} {s : State} (hi : isHostOp i = true) (hwf : wellFormed i = true)
    (hb : s.busy = false) : ∃ t, exec i s = .next t := by
  cases i
  case globalChop en d =>
    have hd : legalDelay d = true := hwf
    exact ⟨_, (if_pos hd).trans (hostOp_next hb)⟩
  case null | rreg | wreg | wdata | wack | rdata | status | chdata | crc => cases hi
  all_goals
    rw [exec]
    exact ⟨_, hostOp_next hb⟩

/-! ## Calls that are answered without fault or stall (R10, R164) -/

/-- The answer to the next call is good. -/
theorem nextAnswer_of_goodCalls {n : Nat} {s : State} (h : goodCalls (n + 1) s) :
    nextAnswer s = .ok ∨ ∃ b, nextAnswer s = .byte b := by
  obtain ⟨hlen, hgood⟩ := h
  unfold nextAnswer
  cases ha : s.answers with
  | nil => rw [ha] at hlen; cases hlen
  | cons a as => exact hgood a (by simp [ha])

/-- After the call one good answer is used. -/
theorem goodCalls_called {n : Nat} {s : State} (h : goodCalls (n + 1) s) : goodCalls n s.called := by
  obtain ⟨hlen, hgood⟩ := h
  unfold goodCalls
  rw [called_answers]
  cases ha : s.answers with
  | nil => rw [ha] at hlen; cases hlen
  | cons a as =>
    rw [ha] at hlen hgood
    exact ⟨Nat.le_of_succ_le_succ hlen, fun b hb => hgood b (List.mem_cons_of_mem a hb)⟩

/-! ## Functions that complete -/

/-- `f` makes `m` calls, and completes where they are answered well; the answers behind them are left. -/
def Completes {α : Type} (m : Nat) (f : State → Reply α) : Prop :=
  ∀ n s, goodCalls (n + m) s → (f s).Ends (fun _ u => goodCalls n u) (fun _ _ => False) fun _ => False

theorem Completes.done {α : Type} {f : State → α} (g : State → State) (hg : ∀ s, (g s).answers = s.answers) :
    Completes 0 fun s => .done (f s) (g s) := by
  intro n s h
  rw [Nat.add_zero, goodCalls, ← hg s] at h
  exact h

/-- The calls of two functions, one after the other. -/
theorem Completes.bind {α β : Type} {m k : Nat} {f : State → Reply α} {g : α → State → Reply β} (hf : Completes m f)
    (hg : ∀ a, Completes k (g a)) : Completes (k + m) fun s => (f s).bind (g · ·) :=
  fun n s h => ends_bind (hf (n + k) s (Nat.add_assoc n k m ▸ h)) fun a u hu => hg a n u hu

/-- A function begun in a state with the same answers. -/
theorem Completes.comp {α : Type} {m : Nat} {f : State → Reply α} {g : State → State} (hf : Completes m f)
    (hg : ∀ s, (g s).answers = s.answers) : Completes m fun s => f (g s) := by
  intro n s h
  rw [goodCalls, ← hg s] at h
  exact hf n (g s) h

theorem busConfigure_completes : Completes 1 busConfigure := by
  intro n s h
  have hleft : goodCalls n s.called := goodCalls_called h
  unfold busConfigure
  rcases nextAnswer_of_goodCalls h with ha | ⟨b, ha⟩ <;> rw [ha] <;> exact hleft

theorem xferByte_completes (o : Byte) : Completes 1 (xferByte o) := by
  intro n s h
  have hleft : goodCalls n s.called := goodCalls_called h
  unfold xferByte
  rcases nextAnswer_of_goodCalls h with ha | ⟨b, ha⟩ <;> rw [ha] <;> exact hleft

theorem xferWord_completes (t : Word) : Completes 3 (xferWord t) :=
  (xferByte_completes _).bind fun _ => (xferByte_completes _).bind fun _ => (xferByte_completes _).bind fun _ =>
    .done id fun _ => rfl

theorem openFrame_completes : Completes 1 openFrame :=
  (busConfigure_completes.comp (g := fun s => { s with frameNo := s.frameNo + 1 }) fun _ => rfl).bind fun _ =>
    .done selAssert fun _ => rfl

/-- Three calls for each Word (R75). -/
theorem xferWords_completes (is : List (Fin 6)) : Completes (3 * is.length) (xferWords is) := by
  induction is with
  | nil => exact .done id fun _ => rfl
  | cons i is ih =>
    intro n s h
    exact ends_bind (xferWord_completes s.tx[i] (n + 3 * is.length) s h) fun r u hu => ih n (storeWord i r u) hu

/-- One call for the bus and 18 for the bytes (R76, R77). -/
theorem xchg6_completes (tx : Frame) : Completes 19 (xchg6 tx) :=
  (openFrame_completes.comp (g := fun s => { s with tx := tx }) fun _ => rfl).bind fun _ =>
    (xferWords_completes wordIndices).bind fun _ => .done closeFrame fun _ => rfl

theorem frame_completes (tx : Frame) : Completes 19 (frame tx) := by
  intro n s h
  exact ends_bind (xchg6_completes tx n s h) fun _ _ hu => hu

/-- A frame whose calls are answered well does not stop. -/
theorem not_frame_stopped {n : Nat} {tx : Frame} {x : Stop} {u v : State} (h : goodCalls (n + 19) u) :
    frame tx u ≠ .stopped x v := by
  intro hstop
  have hends := frame_completes tx n u h
  rw [hstop] at hends
  cases x <;> exact hends

/-! ## Frames of an operation -/

/-- Frames that completed have used 19 answers each. -/
theorem Frames.goodCalls_left {n k : Nat} {s t : State} (h : Frames n s t) (hs : goodCalls (k + 19 * n) s) :
    goodCalls k t := by
  induction h generalizing k with
  | nil => exact hs
  | @cons n s u t tx rx _ _ hdone ih =>
    have hu : goodCalls (k + 19) u := ih (by rwa [Nat.add_right_comm])
    have hends := frame_completes tx k u hu
    rwa [hdone] at hends

/-- Frames that completed leave no scope held (R24, R76). -/
theorem Frames.quiescent {n : Nat} {s t : State} (h : Frames n s t) (hs : Quiescent s) : Quiescent t := by
  induction h with
  | nil => exact hs
  | cons tx rx _ ht _ ih =>
    obtain ⟨-, -, hw, hst, hr⟩ := ih hs
    rw [ht]
    exact ⟨rfl, rfl, hw, hst, hr⟩

/-- Settles O44: the setters make no call, and no frame of any other operation stops. -/
theorem operationEndsWhenThePrimitivesComplete : Obligations.OperationEndsWhenThePrimitivesComplete := by
  intro i s hi hwf hq hgood
  obtain ⟨t, hexec⟩ := exec_accepts hi hwf (not_busy_of_quiescent hq)
  obtain ⟨-, ⟨hz, rfl, rfl⟩ | ⟨hz, rfl, rfl⟩ | ⟨-, -, hends⟩⟩ := exec_ends hi hexec
  · exact ⟨_, _, hexec, hq, rfl, nofun⟩
  · exact ⟨_, _, hexec, hq, rfl, nofun⟩
  · cases hends with
    | done c res u hframes hc => exact ⟨_, _, hexec, hframes.quiescent hq, rfl, hc⟩
    | stop m tx x u v mk n hm hframes hstop =>
      obtain ⟨k, hk⟩ : ∃ k, framesOf i = m + 1 + k := Nat.exists_eq_add_of_le hm
      have hcalls : 19 * framesOf i = 19 * k + 19 + 19 * m := by omega
      rw [hcalls] at hgood
      exact absurd hstop (not_frame_stopped (hframes.goodCalls_left hgood))

end Sys2Proof.Machine
end

section
/-! Settles `BareWriteCommandWritesZero`. `XCHG_FRAME` of a write command sends the frame of a write of 0. -/

namespace Sys2Proof.Machine

/-- The null filler behind a bare write command is the payload 0 (R59, R100). -/
theorem cmdFrame_wreg (a : Addr) : cmdFrame (mkCmd .wreg a) = sendFrame .wreg a 0 := rfl

/-- Settles O60: the reference device takes the frame for a write of 0. -/
theorem bareWriteCommandWritesZero : Obligations.BareWriteCommandWritesZero := by
  intro a dev s hq hdev ha
  have hanswered : AnsweredBy dev (beginOp s) := ⟨ha, hdev⟩
  have hafter := hanswered.afterFrame (cmdFrame (mkCmd .wreg a)) (deviceWords dev)
  have hexec : exec (.xchgFrame (mkCmd .wreg a)) s = .next _ :=
    hostOp_done (not_busy_of_quiescent hq) (frame_device hanswered.1 hanswered.2)
  refine ⟨_, _, hexec, hafter.2, ?_, fun b hb => ?_⟩
  · rw [cmdFrame_wreg, memRead_deviceAfter_sendFrame, if_pos ⟨rfl, rfl⟩]
  · rw [cmdFrame_wreg, memRead_deviceAfter_sendFrame, if_neg fun h => hb h.2]

end Sys2Proof.Machine
end
